-- ==== Sys2Proof/Word.lean ====
section
/-! DEFINITION. The word types of the block (spec 00_scope.md R8, R12): bytes, 16-bit and 64-bit unsigned words. -/

namespace Sys2Proof

/-- A byte, 0..255 (R8, R12). -/
abbrev Byte := BitVec 8

/-- An unsigned 16-bit word (R12). -/
abbrev U16 := BitVec 16

/-- An unsigned 64-bit word (R12). -/
abbrev U64 := BitVec 64

end Sys2Proof
end

