-- ==== Sys2Proof/Config.lean ====
section
/-! DEFINITION. What an implementation of the block fixes: the hardwired protocol constants (spec 00_scope.md R6), the
names its registers and ports take (10_state.md R20, 00_scope.md R12), and the SHAPE of the two build-time parameters
SCHEMA and BUFBYTES (00_scope.md R7). The parameters' default values stand in Machine/Schema.lean. -/

namespace Sys2Proof

/-! ## Hardwired constants -/

/-- `DELIM`, the start delimiter (R6). -/
def Config.delim : Byte := 0x7E

/-- `ESC`, the escape marker (R6). -/
def Config.esc : Byte := 0x7D

/-- `ESCXOR`, the value XORed onto the byte after an escape marker (R6). -/
def Config.escXor : Byte := 0x20

/-- `CKGOOD`, what the 8-bit sum of content bytes plus checksum must equal (R6). -/
def Config.ckGood : Byte := 0xFF

/-! ## Sequencing names -/

/-- The scanner's flag (10_state.md R20, R21). -/
inductive Scan where
  | seek
  | inFrame
  deriving DecidableEq, Repr

/-- The assembler's state, what the block has in the place of a program counter (10_state.md R26). -/
inductive Asm where
  | lenHi
  | lenLo
  | payload
  | csum
  deriving DecidableEq, Repr

/-- One unit of input (00_scope.md R13). -/
inductive Token where
  | byte (b : Byte)
  | eos
  deriving DecidableEq, Repr

/-! ## Record names -/

/-- The 14 known record shapes (30_encoding.md R76). -/
inductive Variant where
  | modemStatus
  | atCmd
  | atCmdQueued
  | atResp
  | remoteAtReq
  | remoteAtResp
  | txReq
  | txExplicit
  | txStatus
  | rxPacket
  | rxExplicit
  | rxIoSample
  | rxSensor
  | rxNodeId
  deriving DecidableEq, Repr

/-- The five analog channels, in the order the spec tests them (46_io_sample.md R193, R195). -/
inductive Channel where
  | supply
  | ad3
  | ad2
  | ad1
  | ad0
  deriving DecidableEq, Repr

/-- The field names of the spec's formats (45_fixed_records.md R170 to R182, 46_io_sample.md R191).
DESIGN CHOICE (log 9), safe: `other n` stands for a name that a replaced SCHEMA may use and the default does not. -/
inductive FieldName where
  | status | tail | frameId | command | parameter | value
  | dest64 | dest16 | src64 | src16 | options
  | broadcastRadius | rfData | srcEndpoint | dstEndpoint | reserved | clusterId | profileId
  | retryCount | deliveryStatus | discoveryStatus
  | sampleCount | dmask | amask | dsamples | asamples
  | asample (c : Channel)
  | sensors | adc0 | adc1 | adc2 | adc3 | temperature
  | remote16 | remote64
  | other (n : Nat)
  deriving DecidableEq, Repr

/-! ## The shape of the parameters -/

/-- A field of a record format (30_encoding.md R78). `OUTADDR` and `INADDR` are lists of two of these
(Machine/Schema.lean); `TAIL` is not listed, since every format ends in exactly one (`Format.tail`). -/
inductive Field where
  | u8 (name : FieldName)
  | u16 (name : FieldName)
  | u64 (name : FieldName)
  | bytes (name : FieldName) (n : Nat)
  | const8 (name : FieldName) (c : Byte)
  | const16 (name : FieldName) (c : U16)
  | enum8 (name : FieldName) (allowed : List Byte)
  | ioSamples
  deriving DecidableEq, Repr

/-- A record format: the fields before the tail, and the tail's name. `TAIL` is "always the last field of a format"
(30_encoding.md R78) and every format ends in one (44_dispatcher.md R161). -/
structure Format where
  fixed : List Field
  tail  : FieldName
  deriving DecidableEq, Repr

/-- The schema ROM (20_memory.md R52, 44_dispatcher.md R156): one format per known tag. The set of non-empty tags is
fixed at the 14 of 30_encoding.md R76, so the ROM is 14 formats and no more. -/
structure Schema where
  modemStatus  : Format
  atCmd        : Format
  atCmdQueued  : Format
  atResp       : Format
  remoteAtReq  : Format
  remoteAtResp : Format
  txReq        : Format
  txExplicit   : Format
  txStatus     : Format
  rxPacket     : Format
  rxExplicit   : Format
  rxIoSample   : Format
  rxSensor     : Format
  rxNodeId     : Format
  deriving DecidableEq, Repr

/-- The two named parameters a model must keep (00_scope.md R7; 92_eei_decisions.md D14, D5). -/
structure Params where
  /-- `SCHEMA`. -/
  schema   : Schema
  /-- `BUFBYTES`: the payload buffer has the addresses 0 .. `bufBytes` - 1. -/
  bufBytes : Nat
  deriving DecidableEq, Repr

end Sys2Proof
end

