-- ==== Sys2Proof/Machine/Flags.lean ====
section
/-! DEFINITION. The tests the block makes and the sums it keeps: the running sum and the checksum test
(spec 43_assembler.md R132, R133, R140), the unescaped value (30_encoding.md R75), the mask bits of an IO sample
(46_io_sample.md R192, R193), and the numeric codes of the flags and causes (10_state.md R20, 60_exceptions.md R217). -/

namespace Sys2Proof

/-- `sum +8 u`: the running sum of COLLECT and the total of the checksum beat (R132, R133). -/
def sumAdd (sum u : Byte) : Byte := sum + u

/-- A checksum byte `u` is good when `sum +8 u` is 0xFF (R133, 30_encoding.md R74). -/
def checksumGood (sum u : Byte) : Bool := sumAdd sum u == Config.ckGood

/-- The sum modulo 256 of a byte sequence (30_encoding.md R74, 10_state.md R36). -/
def sumBytes (bs : List Byte) : Byte := bs.foldl sumAdd 0

/-- The byte a raw byte after a marker stands for: bit 5 inverted (42_unescaper.md R121). -/
def unescape (b : Byte) : Byte := b ^^^ Config.escXor

/-- The bit of a channel in the Analog Channel Mask (46_io_sample.md R193). -/
def Channel.bit : Channel → Nat
  | .supply => 4
  | .ad3    => 3
  | .ad2    => 2
  | .ad1    => 1
  | .ad0    => 0

/-- The fixed order in which the analog flags are tested (46_io_sample.md R195). -/
def Channel.order : List Channel := [.supply, .ad3, .ad2, .ad1, .ad0]

/-- Is the channel's flag set in the Analog Channel Mask (46_io_sample.md R195). -/
def Channel.isSet (amask : Byte) (c : Channel) : Bool := amask.getLsbD c.bit

/-- Channel DIOn of a Digital Channel Mask or Digital Samples word is bit n, n = 0..12 (46_io_sample.md R192). The
decode itself tests only the raw mask. -/
def dioBit (n : Fin 13) (w : U16) : Bool := w.getLsbD n

/-- The register code of the scanner's flag (10_state.md R20). -/
def Scan.code : Scan → BitVec 1
  | .seek    => 0
  | .inFrame => 1

/-- The register code of the assembler's state (10_state.md R20). -/
def Asm.code : Asm → BitVec 2
  | .lenHi   => 0
  | .lenLo   => 1
  | .payload => 2
  | .csum    => 3

end Sys2Proof
end

