-- ==== Sys2Proof/Machine/Schema.lean ====
section
/-! DEFINITION. The default values of the two named parameters (spec 00_scope.md R7): the contents of the schema ROM
(44_dispatcher.md R156, restated format by format in 45_fixed_records.md R170 to R182 and 46_io_sample.md R190), and
BUFBYTES. A user with another schema table replaces the value, not the machine (92_eei_decisions.md D14). -/

namespace Sys2Proof

/-- `OUTADDR`: 64-bit destination address, then 16-bit network address (30_encoding.md R79). -/
def outAddr : List Field := [.u64 .dest64, .u16 .dest16]

/-- `INADDR`: 64-bit source address, then 16-bit network address (30_encoding.md R79). -/
def inAddr : List Field := [.u64 .src64, .u16 .src16]

/-- The set {0x00, 0x08} of an enumerated transmit-options byte (44_dispatcher.md R156, R160). -/
def txOptions : List Byte := [0x00, 0x08]

/-- Tag 0x8A (45_fixed_records.md R170). -/
def fmtModemStatus : Format := ⟨[.u8 .status], .tail⟩

/-- Tag 0x08 (R171). PRESUMED (log 11), unsafe: the layouts of R171 to R182 are marked by the spec as general
knowledge, the default of SCHEMA. -/
def fmtAtCmd : Format := ⟨[.u8 .frameId, .bytes .command 2], .parameter⟩

/-- Tag 0x09 (R172). -/
def fmtAtCmdQueued : Format := ⟨[.u8 .frameId, .bytes .command 2], .parameter⟩

/-- Tag 0x88 (R173). -/
def fmtAtResp : Format := ⟨[.u8 .frameId, .bytes .command 2, .u8 .status], .value⟩

/-- Tag 0x17 (R174). -/
def fmtRemoteAtReq : Format :=
  ⟨[.u8 .frameId] ++ outAddr ++ [.u8 .options, .bytes .command 2], .parameter⟩

/-- Tag 0x97 (R175). -/
def fmtRemoteAtResp : Format :=
  ⟨[.u8 .frameId] ++ inAddr ++ [.bytes .command 2, .u8 .status], .value⟩

/-- Tag 0x10 (R176). -/
def fmtTxReq : Format :=
  ⟨[.u8 .frameId] ++ outAddr ++ [.u8 .broadcastRadius, .enum8 .options txOptions], .rfData⟩

/-- Tag 0x11 (R177). -/
def fmtTxExplicit : Format :=
  ⟨[.u8 .frameId] ++ outAddr ++
    [.u8 .srcEndpoint, .u8 .dstEndpoint, .const8 .reserved 0x00, .u8 .clusterId, .const16 .profileId 0xC105,
     .u8 .broadcastRadius, .enum8 .options txOptions], .rfData⟩

/-- Tag 0x8B (R178). -/
def fmtTxStatus : Format :=
  ⟨[.u8 .frameId, .u16 .dest16, .u8 .retryCount, .u8 .deliveryStatus, .u8 .discoveryStatus], .tail⟩

/-- Tag 0x90 (R179). -/
def fmtRxPacket : Format := ⟨inAddr ++ [.u8 .options], .rfData⟩

/-- Tag 0x91 (R180). -/
def fmtRxExplicit : Format :=
  ⟨inAddr ++ [.u8 .srcEndpoint, .u8 .dstEndpoint, .u16 .clusterId, .u16 .profileId, .u8 .options], .rfData⟩

/-- Tag 0x92 (46_io_sample.md R190, R191). -/
def fmtRxIoSample : Format := ⟨inAddr ++ [.u8 .options, .u8 .sampleCount, .ioSamples], .tail⟩

/-- Tag 0x94 (R181). -/
def fmtRxSensor : Format :=
  ⟨inAddr ++ [.u8 .options, .u8 .sensors, .u16 .adc0, .u16 .adc1, .u16 .adc2, .u16 .adc3, .u16 .temperature], .tail⟩

/-- Tag 0x95 (R182). -/
def fmtRxNodeId : Format := ⟨inAddr ++ [.u8 .options, .u16 .remote16, .u64 .remote64], .tail⟩

/-- The default contents of the schema ROM (44_dispatcher.md R156). -/
def Schema.default : Schema where
  modemStatus  := fmtModemStatus
  atCmd        := fmtAtCmd
  atCmdQueued  := fmtAtCmdQueued
  atResp       := fmtAtResp
  remoteAtReq  := fmtRemoteAtReq
  remoteAtResp := fmtRemoteAtResp
  txReq        := fmtTxReq
  txExplicit   := fmtTxExplicit
  txStatus     := fmtTxStatus
  rxPacket     := fmtRxPacket
  rxExplicit   := fmtRxExplicit
  rxIoSample   := fmtRxIoSample
  rxSensor     := fmtRxSensor
  rxNodeId     := fmtRxNodeId

/-- The ROM's entry for a known tag (44_dispatcher.md R152). -/
def Schema.format (sc : Schema) : Variant → Format
  | .modemStatus  => sc.modemStatus
  | .atCmd        => sc.atCmd
  | .atCmdQueued  => sc.atCmdQueued
  | .atResp       => sc.atResp
  | .remoteAtReq  => sc.remoteAtReq
  | .remoteAtResp => sc.remoteAtResp
  | .txReq        => sc.txReq
  | .txExplicit   => sc.txExplicit
  | .txStatus     => sc.txStatus
  | .rxPacket     => sc.rxPacket
  | .rxExplicit   => sc.rxExplicit
  | .rxIoSample   => sc.rxIoSample
  | .rxSensor     => sc.rxSensor
  | .rxNodeId     => sc.rxNodeId

/-- The default parameters: the default ROM, and `BUFBYTES` = 65535 (00_scope.md R7, 92_eei_decisions.md D5). -/
def Params.default : Params := ⟨Schema.default, 65535⟩

end Sys2Proof
end

