-- ==== Sys2Proof/Machine/State.lean ====
section
/-! DEFINITION. What the block holds (spec 10_state.md R20), what its ports carry (40_pipeline.md R100 to R103), the
payload buffer as plain data (20_memory.md R50, R51), the reasons a step of the model can stop, and the state after
reset (10_state.md R33). -/

namespace Sys2Proof.Machine

/-! ## What the output ports carry -/

/-- A value of the diagnostic port (00_scope.md R12, 60_exceptions.md R210, R211). -/
inductive Diag where
  | checksumFailed
  | truncated
  deriving DecidableEq, Repr

/-- The reason of a decode failure (00_scope.md R12, 60_exceptions.md R212, R214). -/
inductive Reason where
  | constMismatch
  | enumOutOfSet
  | shortFrame
  | emptyFrame
  deriving DecidableEq, Repr

/-- The value of a record field (44_dispatcher.md R164; 46_io_sample.md R191 for the last two). -/
inductive Value where
  | u8 (v : Byte)
  | u16 (v : U16)
  | u64 (v : U64)
  | bytes (bs : List Byte)
  /-- A 16-bit value that may be absent: `dsamples` (46_io_sample.md R194). -/
  | optU16 (v : Option U16)
  /-- Analog samples in wire order, each with its channel: `asamples` (46_io_sample.md R195). -/
  | samples (vs : List (Channel × U16))
  deriving DecidableEq, Repr

/-- The fields of a record, in format order (44_dispatcher.md R164). -/
abbrev Fields := List (FieldName × Value)

/-- A value of the record port (00_scope.md R12). -/
inductive OutEvent where
  /-- One variant per known tag, with its fields (44_dispatcher.md R164). -/
  | record (variant : Variant) (fields : Fields)
  /-- The default arm (44_dispatcher.md R153). -/
  | unknown (tag : Byte) (payload : List Byte)
  /-- A decode failure tied to its frame (60_exceptions.md R213). -/
  | decodeFailure (tag : Option Byte) (reason : Reason) (field : Option FieldName)
  deriving DecidableEq, Repr

/-! ## What the input pins present -/

/-- The input pins in one clock cycle (40_pipeline.md R100, R101). -/
structure Cycle where
  rst   : Bool
  valid : Bool
  eos   : Bool
  data  : Byte
  deriving DecidableEq, Repr

/-! ## The payload buffer -/

/-- The payload buffer: the written cells as (address, byte) pairs, addresses strictly rising (`Memory.wf`). -/
abbrev Memory := List Host.Cell

/-- What an address nothing has written reads as: no value. The spec: "unspecified; never read before written"
(10_state.md R33); 93_implementation_defined.md I10: "any value; unreadable". DESIGN CHOICE (log 4), safe: a decode that
would need such a byte faults. -/
def Memory.unlisted : Option Byte := none

/-! ## State -/

/-- The block: the eight items of 10_state.md R20, the two output ports, the pins still to be presented, and the two
build-time parameters. -/
structure State where
  /-- The scanner's flag (10_state.md R21). -/
  scan   : Scan
  /-- A marker is pending (R22). -/
  esc    : Bool
  /-- The assembler's state (R26). -/
  asm    : Asm
  /-- The length read from the wire (R23). -/
  len    : U16
  /-- Content bytes still to collect (R24). -/
  rem    : U16
  /-- The running sum (R25). -/
  sum    : Byte
  /-- The next free buffer address (R27). -/
  wr     : U16
  /-- The payload buffer (R28). -/
  buf    : Memory
  /-- The record port in the cycle just ended: `out_valid` is `isSome`, `out_event` its value (40_pipeline.md R102).
  DESIGN CHOICE (log 3), safe. -/
  out    : Option OutEvent
  /-- The diagnostic port in the cycle just ended: `diag_valid` is `isSome`, `diag_cause` its value
  (40_pipeline.md R103). DESIGN CHOICE (log 3), safe. -/
  diag   : Option Diag
  /-- The environment's: the pins in the cycles still to come, the next one first; after the last of them `in_valid`
  and `rst` stay 0. DESIGN CHOICE (log 2), safe. -/
  input  : List Cycle
  /-- The build-time parameters; no step changes them. DESIGN CHOICE (log 1), safe. -/
  params : Params
  deriving DecidableEq, Repr

/-- Why a step stops with a fault. No run from reset with `BUFBYTES` = 65535 meets one. -/
inductive Fault where
  /-- Raised by `COLLECT` when `wr` is not an address of the payload buffer: 20_memory.md R51 gives it the addresses
  0 .. BUFBYTES - 1 (log 6). Safe: the model stops where an implementation with a smaller buffer does something the
  spec does not say (92_eei_decisions.md D5). -/
  | noSuchBufferAddress
  /-- Raised by `CHECK_GOOD` when a byte of the Verified Frame was never written: the spec leaves such a byte open and
  says no rule reads it (20_memory.md R58, 93_implementation_defined.md I10; log 4). Safe: the model stops. -/
  | unwrittenBufferByte
  deriving DecidableEq, Repr

/-- Why a step is refused. -/
inductive Refusal where
  /-- Raised only by an arm of `exec` whose instruction has no meaning yet (there is none). Safe. -/
  | notModelled (mnemonic : String)
  deriving DecidableEq, Repr

/-- The state right after reset (10_state.md R33, 70_reset_and_hazards.md R240): the scanner seeks, every frame register
is 0, the buffer holds no value, no event on either port. The parameters stand at their defaults (00_scope.md R7) and
nothing is presented yet (DESIGN CHOICE, log 2, safe). -/
def State.reset : State where
  scan   := .seek
  esc    := false
  asm    := .lenHi
  len    := 0
  rem    := 0
  sum    := 0
  wr     := 0
  buf    := []
  out    := none
  diag   := none
  input  := []
  params := Params.default

end Sys2Proof.Machine
end

