-- ==== Sys2Proof/Machine/Ops.lean ====
section
/-! DEFINITION. The named operations over the registers, the payload buffer and the ports: buffer writes and reads
(spec 20_memory.md R55, R56), the two `emit` primitives (00_scope.md R11), the start of a frame (41_scanner.md R111),
`resync()`, which is the block's whole "trap entry" (60_exceptions.md R216), and what a clock cycle does around a beat
(40_pipeline.md R100, R101, R104). -/

namespace Sys2Proof.Machine

/-! ## The payload buffer -/

/-- The byte at an address, if one was written (`Memory.unlisted` otherwise). -/
def Memory.read : Memory → Nat → Option Byte
  | [], _          => Memory.unlisted
  | (k, v) :: m, a => if k = a then some v else Memory.read m a

/-- Write one byte, keeping the addresses strictly rising (20_memory.md R55). -/
def Memory.write : Memory → Nat → Byte → Memory
  | [], a, v          => [(a, v)]
  | (k, w) :: m, a, v =>
    if a < k then (a, v) :: (k, w) :: m
    else if a = k then (a, v) :: m
    else (k, w) :: Memory.write m a v

/-- The bytes at `a .. a + n`, if all of them were written. -/
def Memory.readBytes (m : Memory) (a : Nat) : Nat → Option (List Byte)
  | 0     => some []
  | n + 1 =>
    match Memory.read m a, Memory.readBytes m (a + 1) n with
    | some v, some vs => some (v :: vs)
    | _, _            => none

/-- Every address of the list is at least `lo`, and they rise strictly. -/
def Memory.wfFrom : Nat → Memory → Bool
  | _, []            => true
  | lo, (k, _) :: m  => lo ≤ k && Memory.wfFrom (k + 1) m

/-- The canonical form: addresses strictly rising. An unlisted address reads as no value, so no entry can equal what
an unlisted address reads as. -/
def Memory.wf (m : Memory) : Bool := Memory.wfFrom 0 m

/-- Every address of the list is below `n`. -/
def Memory.below (n : Nat) (m : Memory) : Bool := m.all (fun c => c.1 < n)

/-- A buffer that holds a byte sequence from an address on. -/
def Memory.ofBytes : Nat → List Byte → Memory
  | _, []      => []
  | a, b :: bs => (a, b) :: Memory.ofBytes (a + 1) bs

/-! ## The ports -/

/-- `emit out(e)` (00_scope.md R11, 40_pipeline.md R102). -/
def emitOut (s : State) (e : OutEvent) : State := { s with out := some e }

/-- `emit diag(d)` (00_scope.md R11, 40_pipeline.md R103). -/
def emitDiag (s : State) (d : Diag) : State := { s with diag := some d }

/-- The code of a cause on `diag_cause` (60_exceptions.md R217). -/
def Diag.code : Diag → Nat
  | .checksumFailed => 1
  | .truncated      => 2

/-- The code of a decode failure's reason (60_exceptions.md R217). -/
def Reason.code : Reason → Nat
  | .constMismatch => 1
  | .enumOutOfSet  => 2
  | .shortFrame    => 3
  | .emptyFrame    => 4

/-! ## The start and the end of a frame -/

/-- Every frame register at its idle value (10_state.md R32; the second line of R111 and of R216). -/
def idleRegs (s : State) : State :=
  { s with esc := false, asm := .lenHi, len := 0, rem := 0, sum := 0, wr := 0 }

/-- `SOF`'s effect: in frame, with a fresh assembler (41_scanner.md R111). -/
def startFrame (s : State) : State := { idleRegs s with scan := .inFrame }

/-- `resync()`: seeking, every frame register idle, `buf` left as it is (60_exceptions.md R216). -/
def resync (s : State) : State := { idleRegs s with scan := .seek }

/-- The Verified Frame `buf[0..len)`, if all its bytes were written (43_assembler.md R133). -/
def verifiedFrame (s : State) : Option (List Byte) := Memory.readBytes s.buf 0 s.len.toNat

/-- `MemWrite(wr, 1, u)` at an address the buffer has (20_memory.md R51, R55). -/
def collectByte (s : State) (u : Byte) : State :=
  { s with buf := Memory.write s.buf s.wr.toNat u }

/-! ## A clock cycle -/

/-- The token a cycle presents, if any: `in_eos` and `in_data` are looked at only when `in_valid` = 1, `in_data` only
when `in_eos` = 0 (40_pipeline.md R100). -/
def cycleToken (c : Cycle) : Option Token :=
  if c.valid then
    if c.eos then some .eos else some (.byte c.data)
  else none

/-- The cycle that presents a token and nothing else. -/
def tokenCycle (t : Token) : Cycle :=
  match t with
  | .byte b => ⟨false, true, false, b⟩
  | .eos    => ⟨false, true, true, 0⟩

/-- The pins after a cycle was taken, with both output ports empty again: an event lives for its beat only
(40_pipeline.md R104). -/
def nextCycle (s : State) (rest : List Cycle) : State :=
  { s with input := rest, out := none, diag := none }

/-- A cycle with `rst` = 1: the state takes the reset values, no event, a token in the same cycle is lost
(40_pipeline.md R101). `buf` is unspecified, so it holds no value (log 5); the parameters are not state
(70_reset_and_hazards.md R241). -/
def resetCycle (s : State) (rest : List Cycle) : State :=
  { State.reset with input := rest, params := s.params }

end Sys2Proof.Machine
end

