-- ==== Sys2Proof/Syntax.lean ====
section
/-! DEFINITION. The operations of the block, one constructor per row of spec/opcode_table.json: seven stream-level
operations (30_encoding.md R72), five assembler operations (R72), and sixteen frame-level operations (R76, R151, R153).
A stream operation carries the raw byte, an assembler operation the delivered byte, a frame operation the content bytes
after the tag. -/

namespace Sys2Proof

/-- The operations of the block. -/
inductive Instr where
  /-- `SKIP` b (41_scanner.md R110). -/
  | skip (b : Byte)
  /-- `SOF` (41_scanner.md R111). -/
  | sof
  /-- `EOS_IDLE` (41_scanner.md R114). -/
  | eosIdle
  /-- `ESC_MARK` (42_unescaper.md R120). -/
  | escMark
  /-- `ESC_BYTE` b, b the raw byte after the marker (42_unescaper.md R121). -/
  | escByte (b : Byte)
  /-- `PLAIN_BYTE` b (42_unescaper.md R122). -/
  | plainByte (b : Byte)
  /-- `EOS_TRUNC` (42_unescaper.md R123). -/
  | eosTrunc
  /-- `LENHI` u (43_assembler.md R130). -/
  | lenHi (u : Byte)
  /-- `LENLO` u (43_assembler.md R131, R135). -/
  | lenLo (u : Byte)
  /-- `COLLECT` u (43_assembler.md R132). -/
  | collect (u : Byte)
  /-- `CHECK`, good, u the checksum byte (43_assembler.md R133). -/
  | checkGood (u : Byte)
  /-- `CHECK`, bad, u the checksum byte (43_assembler.md R134). -/
  | checkBad (u : Byte)
  /-- `MODEM_STATUS`, tag 0x8A (45_fixed_records.md R170). -/
  | modemStatus (body : List Byte)
  /-- `AT_CMD`, tag 0x08 (R171). -/
  | atCmd (body : List Byte)
  /-- `AT_CMD_QUEUED`, tag 0x09 (R172). -/
  | atCmdQueued (body : List Byte)
  /-- `AT_RESP`, tag 0x88 (R173). -/
  | atResp (body : List Byte)
  /-- `REMOTE_AT_REQ`, tag 0x17 (R174). -/
  | remoteAtReq (body : List Byte)
  /-- `REMOTE_AT_RESP`, tag 0x97 (R175). -/
  | remoteAtResp (body : List Byte)
  /-- `TX_REQ`, tag 0x10 (R176). -/
  | txReq (body : List Byte)
  /-- `TX_EXPLICIT`, tag 0x11 (R177). -/
  | txExplicit (body : List Byte)
  /-- `TX_STATUS`, tag 0x8B (R178). -/
  | txStatus (body : List Byte)
  /-- `RX_PACKET`, tag 0x90 (R179). -/
  | rxPacket (body : List Byte)
  /-- `RX_EXPLICIT`, tag 0x91 (R180). -/
  | rxExplicit (body : List Byte)
  /-- `RX_IO_SAMPLE`, tag 0x92 (46_io_sample.md R191). -/
  | rxIoSample (body : List Byte)
  /-- `RX_SENSOR`, tag 0x94 (R181). -/
  | rxSensor (body : List Byte)
  /-- `RX_NODE_ID`, tag 0x95 (R182). -/
  | rxNodeId (body : List Byte)
  /-- `UNKNOWN`, any other tag (44_dispatcher.md R153). -/
  | unknown (tag : Byte) (payload : List Byte)
  /-- `EMPTY`, a Verified Frame of length 0 (44_dispatcher.md R151). -/
  | empty
  deriving DecidableEq, Repr

end Sys2Proof
end

