-- ==== Sys2Proof/Machine/Tags.lean ====
section
/-! DEFINITION. The tag map (spec 30_encoding.md R76): the Frame Type Tag of each known record shape, the lookup of a
tag (44_dispatcher.md R152), and the operation a known shape stands for. -/

namespace Sys2Proof

/-- The Frame Type Tag of a record shape (R76). -/
def Variant.tag : Variant → Byte
  | .modemStatus  => 0x8A
  | .atCmd        => 0x08
  | .atCmdQueued  => 0x09
  | .atResp       => 0x88
  | .remoteAtReq  => 0x17
  | .remoteAtResp => 0x97
  | .txReq        => 0x10
  | .txExplicit   => 0x11
  | .txStatus     => 0x8B
  | .rxPacket     => 0x90
  | .rxExplicit   => 0x91
  | .rxIoSample   => 0x92
  | .rxSensor     => 0x94
  | .rxNodeId     => 0x95

/-- The closed table of known shapes (R76, 44_dispatcher.md R152). -/
def Variant.all : List Variant :=
  [.modemStatus, .atCmd, .atCmdQueued, .atResp, .remoteAtReq, .remoteAtResp, .txReq, .txExplicit, .txStatus,
   .rxPacket, .rxExplicit, .rxIoSample, .rxSensor, .rxNodeId]

/-- Lookup on all 8 bits of the tag, exact match (44_dispatcher.md R152). -/
def Variant.ofTag (t : Byte) : Option Variant :=
  Variant.all.find? (fun v => v.tag == t)

/-- The operation of a known shape on the content bytes after its tag (R76). -/
def Variant.instr (v : Variant) (body : List Byte) : Instr :=
  match v with
  | .modemStatus  => .modemStatus body
  | .atCmd        => .atCmd body
  | .atCmdQueued  => .atCmdQueued body
  | .atResp       => .atResp body
  | .remoteAtReq  => .remoteAtReq body
  | .remoteAtResp => .remoteAtResp body
  | .txReq        => .txReq body
  | .txExplicit   => .txExplicit body
  | .txStatus     => .txStatus body
  | .rxPacket     => .rxPacket body
  | .rxExplicit   => .rxExplicit body
  | .rxIoSample   => .rxIoSample body
  | .rxSensor     => .rxSensor body
  | .rxNodeId     => .rxNodeId body

end Sys2Proof
end

