-- ==== Sys2Proof/Machine/Operands.lean ====
section
/-! DEFINITION. The operand forms of the frame-level operations: the reads of a Verified Frame (spec 20_memory.md R56),
every field kind of 30_encoding.md R78 (44_dispatcher.md R157 to R162, 46_io_sample.md R191), and the field engine that
walks a format (44_dispatcher.md R155, R163). Pure functions of the frame and the format (R154). -/

namespace Sys2Proof.Machine

/-! ## Reads of the frame -/

/-- `be(s)`: the unsigned integer whose most significant byte is the first (00_scope.md R9). -/
def be (bs : List Byte) : Nat := bs.foldl (fun acc b => acc * 256 + b.toNat) 0

/-- `MemBytes(a, n)` (00_scope.md R11). -/
def memBytes (frame : List Byte) (a n : Nat) : List Byte := (frame.drop a).take n

/-- `MemRead(a, n)` (00_scope.md R11, 20_memory.md R56). -/
def memRead (frame : List Byte) (a n : Nat) : Nat := be (memBytes frame a n)

/-- The 1-byte, 2-byte and 8-byte reads as register values. -/
def read8 (frame : List Byte) (a : Nat) : Byte := BitVec.ofNat 8 (memRead frame a 1)

/-- See `read8`. -/
def read16 (frame : List Byte) (a : Nat) : U16 := BitVec.ofNat 16 (memRead frame a 2)

/-- See `read8`. -/
def read64 (frame : List Byte) (a : Nat) : U64 := BitVec.ofNat 64 (memRead frame a 8)

/-! ## The field engine -/

/-- Why the decode of a frame stopped: the reason and the field it stopped at (60_exceptions.md R213). -/
structure Failure where
  reason : Reason
  field  : FieldName
  deriving DecidableEq, Repr

/-- What a field read gives: the fields placed in the record and the new cursor, or a failure. -/
abbrev FieldResult := Except Failure (Fields × Nat)

/-- `need(n, name)`: does a read of `n` bytes at `pos` stay in the frame (44_dispatcher.md R162, 20_memory.md R58).
The sum is a natural number, so it cannot wrap (43_assembler.md R140). -/
def fits (frame : List Byte) (pos n : Nat) : Bool := pos + n ≤ frame.length

/-- A read of `n` bytes that any value passes (44_dispatcher.md R157, R158). -/
def readPlain (frame : List Byte) (pos n : Nat) (name : FieldName) (v : Value) : FieldResult :=
  if fits frame pos n then .ok ([(name, v)], pos + n) else .error ⟨.shortFrame, name⟩

/-- A read of `n` bytes whose value must pass a test, made after the bounds test (R159, R160, R163). -/
def readChecked (frame : List Byte) (pos n : Nat) (name : FieldName) (v : Value) (good : Bool) (bad : Reason) :
    FieldResult :=
  if fits frame pos n then
    if good then .ok ([(name, v)], pos + n) else .error ⟨bad, name⟩
  else .error ⟨.shortFrame, name⟩

/-- The analog samples whose flags are set, in the order given (46_io_sample.md R191 step 5, R195). -/
def readAnalog (frame : List Byte) (amask : Byte) :
    List Channel → Nat → Except Failure (List (Channel × U16) × Nat)
  | [], pos      => .ok ([], pos)
  | c :: cs, pos =>
    if Channel.isSet amask c then
      if fits frame pos 2 then
        match readAnalog frame amask cs (pos + 2) with
        | .ok (vs, q) => .ok ((c, read16 frame pos) :: vs, q)
        | .error e    => .error e
      else .error ⟨.shortFrame, .asample c⟩
    else readAnalog frame amask cs pos

/-- The digital samples word, present exactly when the raw mask is not zero (46_io_sample.md R191 step 4, R194). -/
def readDigital (frame : List Byte) (dmask : U16) (pos : Nat) : Except Failure (Option U16 × Nat) :=
  if dmask != 0 then
    if fits frame pos 2 then .ok (some (read16 frame pos), pos + 2) else .error ⟨.shortFrame, .dsamples⟩
  else .ok (none, pos)

/-- The conditional part of `IOSAMPLES`, behind the two masks (46_io_sample.md R191 steps 4 and 5). -/
def readSamples (frame : List Byte) (dmask : U16) (amask : Byte) (pos : Nat) : FieldResult :=
  match readDigital frame dmask pos with
  | .error e   => .error e
  | .ok (d, p) =>
    match readAnalog frame amask Channel.order p with
    | .error e    => .error e
    | .ok (vs, q) =>
      .ok ([(.dmask, .u16 dmask), (.amask, .u8 amask), (.dsamples, .optU16 d), (.asamples, .samples vs)], q)

/-- `IOSAMPLES`: both masks, then what they select (46_io_sample.md R190, R191). The four values it gives are the four
of R191 before the tail (DEDUCED, log 10, safe). -/
def readIoSamples (frame : List Byte) (pos : Nat) : FieldResult :=
  if fits frame pos 2 then
    if fits frame (pos + 2) 1 then
      readSamples frame (read16 frame pos) (read8 frame (pos + 2)) (pos + 3)
    else .error ⟨.shortFrame, .amask⟩
  else .error ⟨.shortFrame, .dmask⟩

/-- `read_field(f, pos)` (44_dispatcher.md R155, R157 to R160). -/
def readField (frame : List Byte) (f : Field) (pos : Nat) : FieldResult :=
  match f with
  | .u8 name        => readPlain frame pos 1 name (.u8 (read8 frame pos))
  | .u16 name       => readPlain frame pos 2 name (.u16 (read16 frame pos))
  | .u64 name       => readPlain frame pos 8 name (.u64 (read64 frame pos))
  | .bytes name n   => readPlain frame pos n name (.bytes (memBytes frame pos n))
  | .const8 name c  =>
    readChecked frame pos 1 name (.u8 (read8 frame pos)) (read8 frame pos == c) .constMismatch
  | .const16 name c =>
    readChecked frame pos 2 name (.u16 (read16 frame pos)) (read16 frame pos == c) .constMismatch
  | .enum8 name set =>
    readChecked frame pos 1 name (.u8 (read8 frame pos)) (set.contains (read8 frame pos)) .enumOutOfSet
  | .ioSamples      => readIoSamples frame pos

/-- The fields of a format in list order, the cursor moving past each; the first failure ends the walk
(44_dispatcher.md R155, R163). -/
def readFields (frame : List Byte) : List Field → Nat → FieldResult
  | [], pos      => .ok ([], pos)
  | f :: fs, pos =>
    match readField frame f pos with
    | .error e   => .error e
    | .ok (v, p) =>
      match readFields frame fs p with
      | .error e   => .error e
      | .ok (w, q) => .ok (v ++ w, q)

/-- `run_fields`: the fields from address 1, then the tail, which takes all that is left (44_dispatcher.md R155,
R161); a failure stands alone, without a partial record (R163, 60_exceptions.md R213). -/
def runFields (variant : Variant) (fmt : Format) (frame : List Byte) : OutEvent :=
  match readFields frame fmt.fixed 1 with
  | .error e   => .decodeFailure (some variant.tag) e.reason (some e.field)
  | .ok (v, p) => .record variant (v ++ [(fmt.tail, .bytes (memBytes frame p (frame.length - p)))])

end Sys2Proof.Machine
end

