-- ==== Sys2Proof/Machine/Records.lean ====
section
/-! DEFINITION. The frame-level operations: one meaning per row of the tag map (spec 45_fixed_records.md R170 to R182,
46_io_sample.md R191, 44_dispatcher.md R151, R153). Each puts its one event on the record port; "No decoder writes a
flag or a register" (45_fixed_records.md). -/

namespace Sys2Proof.Machine

/-- What a step of the model answers. -/
abbrev Result := Host.Outcome State Fault Refusal

/-- A record decoder: `run_fields` of the ROM's format for the shape, on the frame of its tag and body; the one event
goes to the record port (44_dispatcher.md R150, R155). -/
def runRecord (variant : Variant) (body : List Byte) (s : State) : Result :=
  .next (emitOut s (runFields variant (s.params.schema.format variant) (variant.tag :: body)))

/-- `MODEM_STATUS` (45_fixed_records.md R170). -/
def execModemStatus (body : List Byte) (s : State) : Result := runRecord .modemStatus body s

/-- `AT_CMD` (R171). -/
def execAtCmd (body : List Byte) (s : State) : Result := runRecord .atCmd body s

/-- `AT_CMD_QUEUED` (R172). -/
def execAtCmdQueued (body : List Byte) (s : State) : Result := runRecord .atCmdQueued body s

/-- `AT_RESP` (R173). -/
def execAtResp (body : List Byte) (s : State) : Result := runRecord .atResp body s

/-- `REMOTE_AT_REQ` (R174). -/
def execRemoteAtReq (body : List Byte) (s : State) : Result := runRecord .remoteAtReq body s

/-- `REMOTE_AT_RESP` (R175). -/
def execRemoteAtResp (body : List Byte) (s : State) : Result := runRecord .remoteAtResp body s

/-- `TX_REQ` (R176). -/
def execTxReq (body : List Byte) (s : State) : Result := runRecord .txReq body s

/-- `TX_EXPLICIT` (R177). -/
def execTxExplicit (body : List Byte) (s : State) : Result := runRecord .txExplicit body s

/-- `TX_STATUS` (R178). -/
def execTxStatus (body : List Byte) (s : State) : Result := runRecord .txStatus body s

/-- `RX_PACKET` (R179). -/
def execRxPacket (body : List Byte) (s : State) : Result := runRecord .rxPacket body s

/-- `RX_EXPLICIT` (R180). -/
def execRxExplicit (body : List Byte) (s : State) : Result := runRecord .rxExplicit body s

/-- `RX_IO_SAMPLE` (46_io_sample.md R191). -/
def execRxIoSample (body : List Byte) (s : State) : Result := runRecord .rxIoSample body s

/-- `RX_SENSOR` (R181). -/
def execRxSensor (body : List Byte) (s : State) : Result := runRecord .rxSensor body s

/-- `RX_NODE_ID` (R182). -/
def execRxNodeId (body : List Byte) (s : State) : Result := runRecord .rxNodeId body s

/-- `UNKNOWN`: the raw tag and the content bytes after it (44_dispatcher.md R153). -/
def execUnknown (tag : Byte) (payload : List Byte) (s : State) : Result :=
  .next (emitOut s (.unknown tag payload))

/-- `EMPTY`: a Verified Frame with no byte 0 (44_dispatcher.md R151). -/
def execEmpty (s : State) : Result :=
  .next (emitOut s (.decodeFailure none .emptyFrame none))

/-- `decode(frame, len)`: the one event of a Verified Frame, a pure function of the ROM and the frame (44_dispatcher.md
R150, R154). `execFrame` puts it on the record port through the decoder of the frame's own row. -/
def frameEvent (sc : Schema) (frame : List Byte) : OutEvent :=
  match frame with
  | []          => .decodeFailure none .emptyFrame none
  | tag :: body =>
    match Variant.ofTag tag with
    | some variant => runFields variant (sc.format variant) (variant.tag :: body)
    | none         => .unknown tag body

/-- Dispatch on a known shape: its own decoder (44_dispatcher.md R152). -/
def execVariant (variant : Variant) (body : List Byte) (s : State) : Result :=
  match variant with
  | .modemStatus  => execModemStatus body s
  | .atCmd        => execAtCmd body s
  | .atCmdQueued  => execAtCmdQueued body s
  | .atResp       => execAtResp body s
  | .remoteAtReq  => execRemoteAtReq body s
  | .remoteAtResp => execRemoteAtResp body s
  | .txReq        => execTxReq body s
  | .txExplicit   => execTxExplicit body s
  | .txStatus     => execTxStatus body s
  | .rxPacket     => execRxPacket body s
  | .rxExplicit   => execRxExplicit body s
  | .rxIoSample   => execRxIoSample body s
  | .rxSensor     => execRxSensor body s
  | .rxNodeId     => execRxNodeId body s

/-- `decode(frame, len)` and `emit out` of its event: no byte 0, a known tag, or any other tag (44_dispatcher.md
R150, 43_assembler.md R133). -/
def execFrame (frame : List Byte) (s : State) : Result :=
  match frame with
  | []          => execEmpty s
  | tag :: body =>
    match Variant.ofTag tag with
    | some variant => execVariant variant body s
    | none         => execUnknown tag body s

end Sys2Proof.Machine
end

