-- ==== Sys2Proof/Machine/Scanner.lean ====
section
/-! DEFINITION. The scanner's operations (spec 41_scanner.md R110, R111, R114). Forwarding in frame (R112) is the
selection of the unescaper's operations by `decodeToken`. -/

namespace Sys2Proof.Machine

/-- `SKIP`: "every register keeps its value" (R110). -/
def execSkip (_b : Byte) (s : State) : Result := .next s

/-- `SOF`: start of frame; the delimiter goes nowhere (R111). -/
def execSof (s : State) : Result := .next (startFrame s)

/-- `EOS_IDLE`: no frame is in progress, so there is nothing to truncate (R114). -/
def execEosIdle (s : State) : Result := .next s

end Sys2Proof.Machine
end

