-- ==== Sys2Proof/Machine/Assembler.lean ====
section
/-! DEFINITION. The assembler's operations (spec 43_assembler.md R130 to R135) and the delivery of an unescaped byte to
the one that `asm` selects (40_pipeline.md R105, `deliver`). -/

namespace Sys2Proof.Machine

/-- `LENHI`: the high byte of the length (R130). -/
def execLenHi (u : Byte) (s : State) : Result :=
  .next { s with len := u.setWidth 16 <<< 8, asm := .lenLo }

/-- `len OR zext_16(u)` (R131). -/
def joinedLength (s : State) (u : Byte) : U16 := s.len ||| u.setWidth 16

/-- `LENLO`: the low byte of the length; a length of 0 goes straight to the checksum (R131, R135). -/
def execLenLo (u : Byte) (s : State) : Result :=
  .next { s with
    len := joinedLength s u
    rem := joinedLength s u
    asm := if joinedLength s u = 0 then .csum else .payload }

/-- `COLLECT`: one content byte (R132). An address the buffer does not have faults (log 6). -/
def execCollect (u : Byte) (s : State) : Result :=
  if s.wr.toNat < s.params.bufBytes then
    .next { collectByte s u with
      wr  := s.wr + 1
      sum := sumAdd s.sum u
      rem := s.rem - 1
      asm := if s.rem - 1 = 0 then .csum else .payload }
  else .fault .noSuchBufferAddress

/-- The end of a frame's own beat: `resync()` after the decode (R133). -/
def thenResync (r : Result) : Result :=
  match r with
  | .next s    => .next (resync s)
  | .fault f   => .fault f
  | .refused f => .refused f

/-- `CHECK`, good: the event of the Verified Frame, then `resync()` (R133). The checksum byte itself goes nowhere. A
frame with a byte that nothing has written faults (log 4). -/
def execCheckGood (_u : Byte) (s : State) : Result :=
  match verifiedFrame s with
  | some frame => thenResync (execFrame frame s)
  | none       => .fault .unwrittenBufferByte

/-- `CHECK`, bad: a diagnostic, then `resync()` (R134). -/
def execCheckBad (_u : Byte) (s : State) : Result :=
  .next (resync (emitDiag s .checksumFailed))

/-- `deliver(u)` (40_pipeline.md R105). -/
def deliver (u : Byte) (s : State) : Result :=
  match s.asm with
  | .lenHi   => execLenHi u s
  | .lenLo   => execLenLo u s
  | .payload => execCollect u s
  | .csum    => if checksumGood s.sum u then execCheckGood u s else execCheckBad u s

end Sys2Proof.Machine
end

