-- ==== Sys2Proof/Machine/Unescaper.lean ====
section
/-! DEFINITION. The unescaper's operations (spec 42_unescaper.md R120 to R123). -/

namespace Sys2Proof.Machine

/-- `ESC_MARK`: remember the marker; nothing is delivered (R120). -/
def execEscMark (s : State) : Result := .next { s with esc := true }

/-- `ESC_BYTE`: the byte after a marker, any byte, delivered with bit 5 inverted (R121). -/
def execEscByte (b : Byte) (s : State) : Result := deliver (unescape b) { s with esc := false }

/-- `PLAIN_BYTE`: "otherwise it outputs the byte unchanged" (R122); `esc` is 0 after it (40_pipeline.md R105). -/
def execPlainByte (b : Byte) (s : State) : Result := deliver b { s with esc := false }

/-- `EOS_TRUNC`: the stream ends inside a frame (R123). -/
def execEosTrunc (s : State) : Result := .next (resync (emitDiag s .truncated))

end Sys2Proof.Machine
end

