-- ==== Sys2Proof/Machine/Dispatch.lean ====
section
/-! DEFINITION. The one match from an operation to its meaning, one arm per constructor of Instr. -/

namespace Sys2Proof.Machine

/-- The effect of an operation on a state. -/
def exec (i : Instr) (s : State) : Host.Outcome State Fault Refusal :=
  match i with
  | .skip b => Sys2Proof.Machine.execSkip b s
  | .sof => Sys2Proof.Machine.execSof s
  | .eosIdle => Sys2Proof.Machine.execEosIdle s
  | .escMark => Sys2Proof.Machine.execEscMark s
  | .escByte b => Sys2Proof.Machine.execEscByte b s
  | .plainByte b => Sys2Proof.Machine.execPlainByte b s
  | .eosTrunc => Sys2Proof.Machine.execEosTrunc s
  | .lenHi u => Sys2Proof.Machine.execLenHi u s
  | .lenLo u => Sys2Proof.Machine.execLenLo u s
  | .collect u => Sys2Proof.Machine.execCollect u s
  | .checkGood u => Sys2Proof.Machine.execCheckGood u s
  | .checkBad u => Sys2Proof.Machine.execCheckBad u s
  | .modemStatus body => Sys2Proof.Machine.execModemStatus body s
  | .atCmd body => Sys2Proof.Machine.execAtCmd body s
  | .atCmdQueued body => Sys2Proof.Machine.execAtCmdQueued body s
  | .atResp body => Sys2Proof.Machine.execAtResp body s
  | .remoteAtReq body => Sys2Proof.Machine.execRemoteAtReq body s
  | .remoteAtResp body => Sys2Proof.Machine.execRemoteAtResp body s
  | .txReq body => Sys2Proof.Machine.execTxReq body s
  | .txExplicit body => Sys2Proof.Machine.execTxExplicit body s
  | .txStatus body => Sys2Proof.Machine.execTxStatus body s
  | .rxPacket body => Sys2Proof.Machine.execRxPacket body s
  | .rxExplicit body => Sys2Proof.Machine.execRxExplicit body s
  | .rxIoSample body => Sys2Proof.Machine.execRxIoSample body s
  | .rxSensor body => Sys2Proof.Machine.execRxSensor body s
  | .rxNodeId body => Sys2Proof.Machine.execRxNodeId body s
  | .unknown tag payload => Sys2Proof.Machine.execUnknown tag payload s
  | .empty => Sys2Proof.Machine.execEmpty s

end Sys2Proof.Machine
end

