-- ==== Sys2Proof/WellFormed.lean ====
section
/-! DEFINITION. When an operation is one the block can meet: the operand limits of each row's "selected when"
(spec 30_encoding.md R72, R76; opcode_table.json) and the largest frame a 16-bit length can state (R73). -/

namespace Sys2Proof

/-- The content of a frame is at most 65535 bytes: "Range 0..65535" (30_encoding.md R73). -/
def maxContent : Nat := 65535

/-- The body of a known frame leaves room for the tag (30_encoding.md R70, R73). -/
def bodyFits (body : List Byte) : Bool := body.length + 1 ≤ maxContent

/-- Well-formed operations: `SKIP` is not the delimiter (41_scanner.md R110), `PLAIN_BYTE` is not the marker
(42_unescaper.md R122), `UNKNOWN` carries none of the 14 known tags (44_dispatcher.md R153), and a frame operation's
content fits a frame. -/
def Instr.wellFormed : Instr → Bool
  | .skip b            => b != Config.delim
  | .sof               => true
  | .eosIdle           => true
  | .escMark           => true
  | .escByte _         => true
  | .plainByte b       => b != Config.esc
  | .eosTrunc          => true
  | .lenHi _           => true
  | .lenLo _           => true
  | .collect _         => true
  | .checkGood _       => true
  | .checkBad _        => true
  | .modemStatus body  => bodyFits body
  | .atCmd body        => bodyFits body
  | .atCmdQueued body  => bodyFits body
  | .atResp body       => bodyFits body
  | .remoteAtReq body  => bodyFits body
  | .remoteAtResp body => bodyFits body
  | .txReq body        => bodyFits body
  | .txExplicit body   => bodyFits body
  | .txStatus body     => bodyFits body
  | .rxPacket body     => bodyFits body
  | .rxExplicit body   => bodyFits body
  | .rxIoSample body   => bodyFits body
  | .rxSensor body     => bodyFits body
  | .rxNodeId body     => bodyFits body
  | .unknown tag body  => (Variant.ofTag tag).isNone && bodyFits body
  | .empty             => true

end Sys2Proof
end

