-- ==== Sys2Proof/Decode.lean ====
section
/-! DEFINITION. The three decode maps of the block (spec 30_encoding.md R72 and R76), each total; one decoder over the
three of them that takes any bytes at any place and rejects by name what cannot stand there; the encoder back; and the
reading of a word of spec/opcode_table.json. -/

namespace Sys2Proof

/-! ## The decode maps -/

/-- The stream-level operation a token selects (30_encoding.md R72, 40_pipeline.md R105). -/
def decodeToken (scan : Scan) (esc : Bool) (t : Token) : Instr :=
  match scan, t with
  | .seek, .eos       => .eosIdle
  | .seek, .byte b    => if b == Config.delim then .sof else .skip b
  | .inFrame, .eos    => .eosTrunc
  | .inFrame, .byte b =>
    if esc then .escByte b
    else if b == Config.esc then .escMark
    else .plainByte b

/-- The assembler operation a delivered byte selects (30_encoding.md R72, second table). -/
def decodeDelivered (asm : Asm) (sum u : Byte) : Instr :=
  match asm with
  | .lenHi   => .lenHi u
  | .lenLo   => .lenLo u
  | .payload => .collect u
  | .csum    => if checksumGood sum u then .checkGood u else .checkBad u

/-- The frame-level operation a Verified Frame selects by its content byte 0 (30_encoding.md R76,
44_dispatcher.md R150). -/
def decodeFrame (content : List Byte) : Instr :=
  match content with
  | []          => .empty
  | tag :: body =>
    match Variant.ofTag tag with
    | some v => v.instr body
    | none   => .unknown tag body

/-! ## One decoder over the three maps -/

/-- Where an operation is met: a token at the scanner, a delivered byte at the assembler, a Verified Frame at the
dispatcher, each with the state its map looks at (30_encoding.md R72, R76). -/
inductive Site where
  | stream (scan : Scan) (esc : Bool)
  | assembler (asm : Asm) (sum : Byte)
  | frame
  deriving DecidableEq, Repr

/-- What arrives there: a run of bytes, or the end-of-stream mark, which has no byte (00_scope.md R13). -/
inductive Code where
  | bytes (bs : List Byte)
  | eos
  deriving DecidableEq, Repr

/-- Why a code cannot arrive at a place. -/
inductive Reject where
  /-- The scanner takes one token a beat (00_scope.md R13). -/
  | notOneToken
  /-- The unescaper delivers one byte at a time, and never an end of stream (42_unescaper.md R121 to R123). -/
  | notOneByte
  /-- The dispatcher is handed content bytes only (44_dispatcher.md R150). -/
  | notContent
  /-- No length prefix states more than 65535 content bytes (30_encoding.md R73). -/
  | frameTooLong
  deriving DecidableEq, Repr

/-- The decoder: total on any bytes at any place, rejecting by name. -/
def decode (site : Site) (code : Code) : Except Reject Instr :=
  match site, code with
  | .stream scan esc, .eos        => .ok (decodeToken scan esc .eos)
  | .stream scan esc, .bytes [b]  => .ok (decodeToken scan esc (.byte b))
  | .stream _ _, .bytes _         => .error .notOneToken
  | .assembler asm sum, .bytes [u] => .ok (decodeDelivered asm sum u)
  | .assembler _ _, .bytes _      => .error .notOneByte
  | .assembler _ _, .eos          => .error .notOneByte
  | .frame, .bytes content        =>
    if content.length ≤ maxContent then .ok (decodeFrame content) else .error .frameTooLong
  | .frame, .eos                  => .error .notContent

/-- What arrives when an operation is met (the inverse of `decode`): the raw byte or mark of a stream operation, the
delivered byte of an assembler operation, tag and body of a frame operation (30_encoding.md R72, R76). -/
def encode : Instr → Code
  | .skip b            => .bytes [b]
  | .sof               => .bytes [0x7E]
  | .eosIdle           => .eos
  | .escMark           => .bytes [0x7D]
  | .escByte b         => .bytes [b]
  | .plainByte b       => .bytes [b]
  | .eosTrunc          => .eos
  | .lenHi u           => .bytes [u]
  | .lenLo u           => .bytes [u]
  | .collect u         => .bytes [u]
  | .checkGood u       => .bytes [u]
  | .checkBad u        => .bytes [u]
  | .modemStatus body  => .bytes (0x8A :: body)
  | .atCmd body        => .bytes (0x08 :: body)
  | .atCmdQueued body  => .bytes (0x09 :: body)
  | .atResp body       => .bytes (0x88 :: body)
  | .remoteAtReq body  => .bytes (0x17 :: body)
  | .remoteAtResp body => .bytes (0x97 :: body)
  | .txReq body        => .bytes (0x10 :: body)
  | .txExplicit body   => .bytes (0x11 :: body)
  | .txStatus body     => .bytes (0x8B :: body)
  | .rxPacket body     => .bytes (0x90 :: body)
  | .rxExplicit body   => .bytes (0x91 :: body)
  | .rxIoSample body   => .bytes (0x92 :: body)
  | .rxSensor body     => .bytes (0x94 :: body)
  | .rxNodeId body     => .bytes (0x95 :: body)
  | .unknown tag body  => .bytes (tag :: body)
  | .empty             => .bytes []

/-- The places at which the table selects an operation ("selected_when" of opcode_table.json; 30_encoding.md R72, R76):
the state columns of its row. The operand limits are `Instr.wellFormed`. -/
def Instr.selectedAt (i : Instr) (site : Site) : Bool :=
  match i with
  | .skip _ | .sof | .eosIdle =>
    match site with
    | .stream .seek _ => true
    | _ => false
  | .escMark | .plainByte _ =>
    match site with
    | .stream .inFrame esc => !esc
    | _ => false
  | .escByte _ =>
    match site with
    | .stream .inFrame esc => esc
    | _ => false
  | .eosTrunc =>
    match site with
    | .stream .inFrame _ => true
    | _ => false
  | .lenHi _ =>
    match site with
    | .assembler .lenHi _ => true
    | _ => false
  | .lenLo _ =>
    match site with
    | .assembler .lenLo _ => true
    | _ => false
  | .collect _ =>
    match site with
    | .assembler .payload _ => true
    | _ => false
  | .checkGood u =>
    match site with
    | .assembler .csum sum => checksumGood sum u
    | _ => false
  | .checkBad u =>
    match site with
    | .assembler .csum sum => !checksumGood sum u
    | _ => false
  | .modemStatus _ | .atCmd _ | .atCmdQueued _ | .atResp _ | .remoteAtReq _ | .remoteAtResp _ | .txReq _
  | .txExplicit _ | .txStatus _ | .rxPacket _ | .rxExplicit _ | .rxIoSample _ | .rxSensor _ | .rxNodeId _
  | .unknown _ _ | .empty => site == .frame

/-! ## Words of the opcode table -/

/-- The content length given to a frame that is laid out from a table word alone: the largest minimum of the 14
formats (30_encoding.md R80, `RX_SENSOR`). DESIGN CHOICE (log 8), safe: the table gives the operand bytes no bits, so
they are zeros, and their number is the model's. -/
def tableFrameLen : Nat := 23

/-- The bytes of a table word, the first byte being bits 7..0. -/
def wordBytes : Nat → Nat → List Byte
  | 0, _     => []
  | n + 1, w => BitVec.ofNat 8 w :: wordBytes n (w / 256)

/-- The bytes of a table word as frame content: padded with zero operand bytes up to `tableFrameLen`; a word of no
bytes is the empty frame. -/
def tableContent (nbits w : Nat) : List Byte :=
  match wordBytes (nbits / 8) w with
  | []  => []
  | bs  => bs ++ List.replicate (tableFrameLen - bs.length) 0

/-- Which place a table word is read at, and as what (log 8): the one byte 0x7E is the row of `SOF` and the one byte
0x7D the row of `ESC_MARK`, the two rows of the stream map that the table gives bits; every other word is content,
starting with the tag. -/
def tableSite (nbits w : Nat) : Site × Code :=
  if nbits = 8 ∧ w % 256 = 0x7E then (.stream .seek false, .bytes [Config.delim])
  else if nbits = 8 ∧ w % 256 = 0x7D then (.stream .inFrame false, .bytes [Config.esc])
  else (.frame, .bytes (tableContent nbits w))

/-- The operation the decoder reads from a word of spec/opcode_table.json (log 8). -/
def decodeTableWord (nbits w : Nat) : Option Instr :=
  match decode (tableSite nbits w).1 (tableSite nbits w).2 with
  | .ok i    => some i
  | .error _ => none

end Sys2Proof
end

