-- ==== Sys2Proof/Machine/Fetch.lean ====
section
/-! DEFINITION. What a clock cycle takes from the pins (spec 40_pipeline.md R100, R101, R105), and the placing of a word
of spec/opcode_table.json where the next step meets it. -/

namespace Sys2Proof.Machine

/-- What a cycle calls for. -/
inductive Fetched where
  /-- No token is handled: the state the cycle leaves. -/
  | quiet (s : State)
  /-- A token selects an operation, to be run on the given state. -/
  | run (i : Instr) (s : State)
  deriving DecidableEq, Repr

/-- One cycle: with nothing more presented the block waits (70_reset_and_hazards.md R245); `rst` has priority over a
token (40_pipeline.md R101); `in_valid` = 0 changes nothing (R100); else the token selects an operation (R105). -/
def fetch (s : State) : Fetched :=
  match s.input with
  | []        => .quiet (nextCycle s [])
  | c :: rest =>
    if c.rst then .quiet (resetCycle s rest)
    else
      match cycleToken c with
      | none   => .quiet (nextCycle s rest)
      | some t => .run (decodeToken s.scan s.esc t) (nextCycle s rest)

/-- The checksum byte that makes a content good (30_encoding.md R74). -/
def goodChecksum (content : List Byte) : Byte := Config.ckGood - sumBytes content

/-- A content one beat before its good checksum: collected, summed, in `CSUM`, a marker pending, and the checksum byte
presented as the byte after it, so that the very next step hands the frame to its decoder whatever the checksum byte
is (log 8). -/
def placeFrame (s : State) (content : List Byte) : State :=
  { s with
    scan  := .inFrame
    esc   := true
    asm   := .csum
    len   := BitVec.ofNat 16 content.length
    rem   := 0
    sum   := sumBytes content
    wr    := BitVec.ofNat 16 content.length
    buf   := Memory.ofBytes 0 content
    input := tokenCycle (.byte (unescape (goodChecksum content))) :: s.input }

/-- A code at its place, so that the very next step meets it there (log 8). -/
def placeCode (s : State) (site : Site) (code : Code) : State :=
  match site, code with
  | .stream scan esc, .bytes [b] =>
    { s with scan := scan, esc := esc, input := tokenCycle (.byte b) :: s.input }
  | .frame, .bytes content => placeFrame s content
  | _, _ => s

end Sys2Proof.Machine
end

