-- ==== Sys2Proof/Machine/Step.lean ====
section
/-! DEFINITION. The step: one clock cycle (spec 40_pipeline.md R100 to R105), with the operation its token selects run
whole in it (R108). -/

namespace Sys2Proof.Machine

/-- One clock cycle. -/
def step (s : State) : Host.Outcome State Fault Refusal :=
  match fetch s with
  | .quiet s' => .next s'
  | .run i s' => exec i s'

/-- The state with a word of spec/opcode_table.json placed where `step` takes its next operation from (log 8). -/
def State.withFetchWord (s : State) (nbits w : Nat) : State :=
  placeCode s (tableSite nbits w).1 (tableSite nbits w).2

end Sys2Proof.Machine
end

