-- ==== Sys2Proof/Safety.lean ====
section
/-! DEFINITION. The terms statements are made in: the invariants of the block (spec 10_state.md R32, R36), what a run
shows (40_pipeline.md R106), the sender's notation FRAME(c) (30_encoding.md R90), and how far a frame is from its end
(60_exceptions.md R224). Nothing here is used by the machine. -/

namespace Sys2Proof.Machine

/-! ## Invariants -/

/-- The content bytes collected so far, `buf[0..wr)`. -/
def collected (s : State) : Option (List Byte) := Memory.readBytes s.buf 0 s.wr.toNat

/-- Every frame register at its idle value (10_state.md R32). -/
abbrev RegsIdle (s : State) : Prop :=
  s.esc = false ∧ s.asm = .lenHi ∧ s.len = 0 ∧ s.rem = 0 ∧ s.sum = 0 ∧ s.wr = 0

/-- The idle state of a frame decoder: seeking, every frame register idle (10_state.md R32). -/
abbrev Idle (s : State) : Prop := s.scan = .seek ∧ RegsIdle s

/-- `LEN_HI` in frame (10_state.md R36). -/
abbrev LenHiInv (s : State) : Prop := s.len = 0 ∧ s.rem = 0 ∧ s.sum = 0 ∧ s.wr = 0

/-- `LEN_LO` in frame: the low byte of `len` is still 0 (10_state.md R36). -/
abbrev LenLoInv (s : State) : Prop := s.len.setWidth 8 = (0 : Byte) ∧ s.rem = 0 ∧ s.sum = 0 ∧ s.wr = 0

/-- `PAYLOAD` in frame (10_state.md R36). -/
abbrev PayloadInv (s : State) : Prop :=
  1 ≤ s.rem.toNat ∧ s.wr.toNat + s.rem.toNat = s.len.toNat ∧ (collected s).map sumBytes = some s.sum

/-- `CSUM` in frame (10_state.md R36). -/
abbrev CsumInv (s : State) : Prop :=
  s.rem = 0 ∧ s.wr = s.len ∧ (collected s).map sumBytes = some s.sum

/-- The in-frame invariants (10_state.md R36). -/
abbrev FrameInv (s : State) : Prop :=
  (s.asm = .lenHi → LenHiInv s) ∧ (s.asm = .lenLo → LenLoInv s) ∧ (s.asm = .payload → PayloadInv s) ∧
    (s.asm = .csum → CsumInv s)

/-- The payload buffer is in canonical form and holds addresses of the buffer only (20_memory.md R50, R51). -/
abbrev BufInv (s : State) : Prop := s.buf.wf = true ∧ s.buf.below s.params.bufBytes = true

/-- At most one event at a time (40_pipeline.md R103, R104). -/
abbrev PortsInv (s : State) : Prop := s.out = none ∨ s.diag = none

/-- The invariant of the block. -/
abbrev Inv (s : State) : Prop :=
  (s.scan = .seek → RegsIdle s) ∧ (s.scan = .inFrame → FrameInv s) ∧ BufInv s ∧ PortsInv s

/-! ## What a run shows -/

/-- An event on one of the two output ports (40_pipeline.md R102, R103). -/
inductive Event where
  | out (e : OutEvent)
  | diag (d : Diag)
  deriving DecidableEq, Repr

/-- The event presented in the cycle just ended, if any. -/
def State.event (s : State) : Option Event :=
  match s.out with
  | some e => some (.out e)
  | none   => s.diag.map .diag

/-- Will the next cycle be a beat, that is, handle a token (00_scope.md R13). DESIGN CHOICE (log 16), unsafe: a cycle with
`rst` = 1 is no beat, even when it presents a token, which is then lost (40_pipeline.md R101). -/
def atBeat (s : State) : Bool :=
  match fetch s with
  | .run _ _ => true
  | .quiet _ => false

/-- The observation of `k` cycles: the (beat index, event) pairs, in order (40_pipeline.md R106), the first beat having the
index `beat`. DESIGN CHOICE (log 16), unsafe: R106 speaks of a run without a reset cycle; here such a cycle takes no index,
and the index goes on after it. -/
def observe : Nat → Nat → State → List (Nat × Event)
  | 0, _, _        => []
  | k + 1, beat, s =>
    match step s with
    | .next t    =>
      (match t.event with
        | some e => [(beat, e)]
        | none   => []) ++ observe k (if atBeat s then beat + 1 else beat) t
    | .fault _   => []
    | .refused _ => []

/-- The state after `k` cycles. -/
def runFor (k : Nat) (s : State) : Host.Outcome State Fault Refusal := Host.Core.run core k s

/-! ## The sender's notation -/

/-- `E(b)` of a sender that escapes the bytes of `p` (30_encoding.md R90). -/
def escapeWith (p : Byte → Bool) (b : Byte) : List Byte :=
  if p b then [Config.esc, unescape b] else [b]

/-- `FRAME(c)` and `FRAME_BAD(c, k)` in one: delimiter, length, content and the checksum byte `k`, each byte after the
delimiter through `E` (30_encoding.md R90). -/
def frameWith (p : Byte → Bool) (c : List Byte) (k : Byte) : List Byte :=
  [Config.delim] ++ escapeWith p (BitVec.ofNat 8 (c.length / 256)) ++ escapeWith p (BitVec.ofNat 8 c.length) ++
    c.flatMap (escapeWith p) ++ escapeWith p k

/-- `ESCSET` = the delimiter and the marker (30_encoding.md R90). -/
def escSet (b : Byte) : Bool := b == Config.delim || b == Config.esc

/-- The pins presenting bytes one after the other. -/
def byteCycles (bs : List Byte) : List Cycle := bs.map (fun b => tokenCycle (.byte b))

/-! ## The distance to the end of a frame -/

/-- How many unescaped bytes at most bring the frame in progress to its end (60_exceptions.md R224): "at most two
length bytes, `len` content bytes and one checksum byte". -/
def remaining (s : State) : Nat :=
  match s.scan, s.asm with
  | .seek, _          => 0
  | .inFrame, .lenHi   => 65535 + 3
  | .inFrame, .lenLo   => 65535 + 2
  | .inFrame, .payload => s.rem.toNat + 1
  | .inFrame, .csum    => 1

/-! ## Two blocks that differ in stale bytes only -/

/-- Equal in everything but the buffer, and equal in the buffer below `wr` (10_state.md R28). -/
abbrev AgreeBelowWr (s t : State) : Prop :=
  t = { s with buf := t.buf } ∧ ∀ a, a < s.wr.toNat → Memory.read t.buf a = Memory.read s.buf a

/-! ## The event of a frame, by address -/

/-- The first field of a table (name, address after its last byte) that runs past a length: the field a frame too short
for it names, when nothing before it fails (44_dispatcher.md R162). -/
def firstPast (len : Nat) : List (FieldName × Nat) → Option FieldName
  | []               => none
  | (name, e) :: tbl => if len < e then some name else firstPast len tbl

/-- `SHORT_FRAME` naming the first field of the table that does not fit, else the given event. -/
def shortOr (frame : List Byte) (tbl : List (FieldName × Nat)) (e : OutEvent) : OutEvent :=
  match firstPast frame.length tbl with
  | some f => .decodeFailure frame.head? .shortFrame (some f)
  | none   => e

/-- The tail of a record: everything from an address on (44_dispatcher.md R161). -/
def tailFrom (frame : List Byte) (a : Nat) : Value := .bytes (memBytes frame a (frame.length - a))

/-- Where the analog samples of an IO sample begin: after the digital samples word if there is one
(46_io_sample.md R190, R194). -/
def analogBase (dmask : U16) : Nat := if dmask = 0 then 16 else 18

/-- The five analog flags with their bits, in the order they are tested: the spec's own table (46_io_sample.md R193, R195),
written out apart from the machine's `Channel.bit` and `Channel.order`. -/
def analogFlags : List (Channel × Nat) := [(.supply, 4), (.ad3, 3), (.ad2, 2), (.ad1, 1), (.ad0, 0)]

/-- The channels whose flags are set, with their ordinal counted from 0, in the tested order (46_io_sample.md R195). -/
def setChannels (amask : Byte) : List (Channel × Nat) :=
  ((analogFlags.filter (fun cb => amask.getLsbD cb.2)).map Prod.fst).zipIdx

/-- `popcount(amask[4:0])`: the bits 4..0 that are 1 (46_io_sample.md R195, R199). -/
def analogCount (amask : Byte) : Nat := ((List.range 5).filter (fun n => amask.getLsbD n)).length

/-- The wire bytes of a field's value, most significant byte first (20_memory.md R54). -/
def valueBytes : Value → List Byte
  | .u8 v       => [v]
  | .u16 v      => u16Bytes v
  | .u64 v      =>
    [v.extractLsb' 56 8, v.extractLsb' 48 8, v.extractLsb' 40 8, v.extractLsb' 32 8, v.extractLsb' 24 8,
     v.extractLsb' 16 8, v.extractLsb' 8 8, v.extractLsb' 0 8]
  | .bytes bs   => bs
  | .optU16 v   => v.elim [] u16Bytes
  | .samples vs => vs.flatMap (fun cv => u16Bytes cv.2)
where
  /-- The two bytes of a 16-bit word, high byte first. -/
  u16Bytes (v : U16) : List Byte := [v.extractLsb' 8 8, v.extractLsb' 0 8]

/-! ## Where an operation stores -/

/-- The buffer address an operation stores its one byte to, if it stores: `wr`, for `COLLECT` and for a raw byte that is
delivered to `COLLECT` (20_memory.md R55). -/
def storeAddr (i : Instr) (s : State) : Option Nat :=
  match i with
  | .collect _   => some s.wr.toNat
  | .escByte _   => if s.asm = .payload then some s.wr.toNat else none
  | .plainByte _ => if s.asm = .payload then some s.wr.toNat else none
  | .skip _ | .sof | .eosIdle | .escMark | .eosTrunc | .lenHi _ | .lenLo _ | .checkGood _ | .checkBad _
  | .modemStatus _ | .atCmd _ | .atCmdQueued _ | .atResp _ | .remoteAtReq _ | .remoteAtResp _ | .txReq _
  | .txExplicit _ | .txStatus _ | .rxPacket _ | .rxExplicit _ | .rxIoSample _ | .rxSensor _ | .rxNodeId _
  | .unknown _ _ | .empty => none

/-- The frame-level operations: the fourteen record decoders, `UNKNOWN` and `EMPTY`. -/
def isFrameLevel (i : Instr) : Bool := i.selectedAt .frame

end Sys2Proof.Machine
end

