-- ==== Sys2Proof/Certificates/Slice0/Obligations.lean ====
section
/-! DEFINITION. The statements for the provers. Each docstring names the rule of spec/ it formalises, or, for a derived
one, the spec's sentence it rests on. A statement about a record of 45_fixed_records.md has the premise that SCHEMA stands
at its default: it depends on a layout that 92_eei_decisions.md D14 makes a parameter (log 11). -/

open Sys2Proof Sys2Proof.Machine

/-! ## Encodings -/

/-- Decode inverts encode: at every place where the table selects a well-formed operation, the decoder reads it back from
its encoding, for all 28 rows and every operand (30_encoding.md sections 1 and 3). -/
def Obligations.DecodeInvertsEncode : Prop :=
  ∀ (i : Instr) (site : Site), i.wellFormed = true → i.selectedAt site = true → decode site (encode i) = .ok i

/-- Encode inverts decode: what the decoder reads at a place is well-formed, selected there by the table, and encoded by
exactly what was read, so no bit is dropped and no code has two meanings (30_encoding.md sections 1 and 3). -/
def Obligations.EncodeInvertsDecode : Prop :=
  ∀ (site : Site) (code : Code) (i : Instr), decode site code = .ok i →
    i.wellFormed = true ∧ i.selectedAt site = true ∧ encode i = code

/-- A few words written out from the spec's encodings decode to what they stand for (30_encoding.md, 44_dispatcher.md). -/
def Obligations.WrittenOutWordsDecode : Prop :=
  decode (.stream .seek false) (.bytes [0b01111110]) = .ok .sof ∧
  decode (.stream .seek false) (.bytes [0b01111101]) = .ok (.skip 0x7D) ∧
  decode (.stream .inFrame false) (.bytes [0b01111101]) = .ok .escMark ∧
  decode (.stream .inFrame true) (.bytes [0b01111101]) = .ok (.escByte 0x7D) ∧
  decode (.stream .inFrame false) (.bytes [0b01111110]) = .ok (.plainByte 0x7E) ∧
  decode (.stream .inFrame true) .eos = .ok .eosTrunc ∧
  decode (.assembler .csum 0x8A) (.bytes [0x75]) = .ok (.checkGood 0x75) ∧
  decode (.assembler .csum 0x8A) (.bytes [0x74]) = .ok (.checkBad 0x74) ∧
  decode .frame (.bytes [0b10001010, 0x00]) = .ok (.modemStatus [0x00]) ∧
  decode .frame (.bytes [0b10010010, 0x01]) = .ok (.rxIoSample [0x01]) ∧
  decode .frame (.bytes [0xA1, 1, 2, 3]) = .ok (.unknown 0xA1 [1, 2, 3]) ∧
  decode .frame (.bytes []) = .ok .empty

/-- R72: the stream-level operation map and the assembler's map, row by row. -/
def Obligations.StreamMapRows : Prop :=
  (∀ (esc : Bool) (b : Byte), b ≠ 0x7E → decodeToken .seek esc (.byte b) = .skip b) ∧
  (∀ esc : Bool, decodeToken .seek esc (.byte 0x7E) = .sof) ∧
  (∀ esc : Bool, decodeToken .seek esc .eos = .eosIdle) ∧
  decodeToken .inFrame false (.byte 0x7D) = .escMark ∧
  (∀ b : Byte, decodeToken .inFrame true (.byte b) = .escByte b) ∧
  (∀ b : Byte, b ≠ 0x7D → decodeToken .inFrame false (.byte b) = .plainByte b) ∧
  (∀ esc : Bool, decodeToken .inFrame esc .eos = .eosTrunc) ∧
  (∀ sum u : Byte, decodeDelivered .lenHi sum u = .lenHi u) ∧
  (∀ sum u : Byte, decodeDelivered .lenLo sum u = .lenLo u) ∧
  (∀ sum u : Byte, decodeDelivered .payload sum u = .collect u) ∧
  (∀ sum u : Byte, (sum.toNat + u.toNat) % 256 = 0xFF → decodeDelivered .csum sum u = .checkGood u) ∧
  (∀ sum u : Byte, (sum.toNat + u.toNat) % 256 ≠ 0xFF → decodeDelivered .csum sum u = .checkBad u)

/-- R76, R152: content byte 0, all eight bits, selects the record format; any other of the 242 values selects the
default arm, and a frame with no byte 0 selects `EMPTY`. -/
def Obligations.TagSelectsFormat : Prop :=
  (∀ body : List Byte,
    decodeFrame (0x8A :: body) = .modemStatus body ∧ decodeFrame (0x08 :: body) = .atCmd body ∧
    decodeFrame (0x09 :: body) = .atCmdQueued body ∧ decodeFrame (0x88 :: body) = .atResp body ∧
    decodeFrame (0x17 :: body) = .remoteAtReq body ∧ decodeFrame (0x97 :: body) = .remoteAtResp body ∧
    decodeFrame (0x10 :: body) = .txReq body ∧ decodeFrame (0x11 :: body) = .txExplicit body ∧
    decodeFrame (0x8B :: body) = .txStatus body ∧ decodeFrame (0x90 :: body) = .rxPacket body ∧
    decodeFrame (0x91 :: body) = .rxExplicit body ∧ decodeFrame (0x92 :: body) = .rxIoSample body ∧
    decodeFrame (0x94 :: body) = .rxSensor body ∧ decodeFrame (0x95 :: body) = .rxNodeId body) ∧
  (∀ (tag : Byte) (body : List Byte),
    tag ∉ [(0x8A : Byte), 0x08, 0x09, 0x88, 0x17, 0x97, 0x10, 0x11, 0x8B, 0x90, 0x91, 0x92, 0x94, 0x95] →
    decodeFrame (tag :: body) = .unknown tag body) ∧
  decodeFrame [] = .empty

/-! ## The step and its nesting -/

/-- A step runs the decoded operation: in a cycle with `rst` = 0 that presents a token, `step` is `exec` of the operation
the token selects, on the state with that cycle taken and both ports empty (40_pipeline.md section 2). -/
def Obligations.StepRunsDecodedOperation : Prop :=
  ∀ (s : State) (c : Cycle) (rest : List Cycle) (t : Token),
    s.input = c :: rest → c.rst = false → cycleToken c = some t →
    step s = exec (decodeToken s.scan s.esc t) { s with input := rest, out := none, diag := none }

/-- A raw byte in frame runs the assembler operation that its delivered value selects, with `esc` cleared
(40_pipeline.md section 2, `deliver`). -/
def Obligations.RawByteRunsAssemblerOperation : Prop :=
  ∀ (s : State) (b : Byte),
    exec (.escByte b) s = exec (decodeDelivered s.asm s.sum (b ^^^ 0x20)) { s with esc := false } ∧
    exec (.plainByte b) s = exec (decodeDelivered s.asm s.sum b) { s with esc := false }

/-- A good checksum runs the frame-level operation that the Verified Frame selects, then `resync()`
(44_dispatcher.md section 1, 43_assembler.md `CHECK`, good). -/
def Obligations.GoodChecksumRunsFrameOperation : Prop :=
  ∀ (s : State) (u : Byte) (frame : List Byte), verifiedFrame s = some frame →
    ∃ t, exec (decodeFrame frame) s = .next t ∧ exec (.checkGood u) s = .next (resync t)

/-- R100: a cycle with `in_valid` = 0 changes nothing and outputs nothing; `in_eos` is sampled only when `in_valid` = 1;
`in_data` is ignored when `in_eos` = 1. That the pins advance by the cycle taken is the model's (log 2). -/
def Obligations.IdleCycleChangesNothing : Prop :=
  (∀ (s : State) (eos : Bool) (data : Byte) (rest : List Cycle), s.input = ⟨false, false, eos, data⟩ :: rest →
    step s = .next { s with input := rest, out := none, diag := none }) ∧
  (∀ (eos : Bool) (data : Byte), cycleToken ⟨false, true, eos, data⟩ = some (if eos then .eos else .byte data))

/-- R101: with `rst` = 1 every register takes its reset value, no event is produced, and a token presented in the same
cycle is lost. That the pins advance and the parameters stay is the model's (log 2, log 1). -/
def Obligations.ResetCycleTakesResetValues : Prop :=
  ∀ (s : State) (valid eos : Bool) (data : Byte) (rest : List Cycle), s.input = ⟨true, valid, eos, data⟩ :: rest →
    ∃ t, step s = .next t ∧ t.scan = .seek ∧ t.esc = false ∧ t.asm = .lenHi ∧ t.len = 0 ∧ t.rem = 0 ∧ t.sum = 0 ∧
      t.wr = 0 ∧ t.out = none ∧ t.diag = none ∧ t.input = rest ∧ t.params = s.params

/-- R33: the state after reset: the values of the table, and no event on either port. -/
def Obligations.ResetStateValues : Prop :=
  State.reset.scan = .seek ∧ State.reset.esc = false ∧ State.reset.asm = .lenHi ∧ State.reset.len = 0 ∧
  State.reset.rem = 0 ∧ State.reset.sum = 0 ∧ State.reset.wr = 0 ∧ State.reset.out = none ∧ State.reset.diag = none

/-! ## Stream-level operations -/

/-- R110, R114: `SKIP` and `EOS_IDLE` have no effect: every register keeps its value and there is no event. -/
def Obligations.SkipAndEosIdleChangeNothing : Prop :=
  ∀ (s : State) (b : Byte), exec (.skip b) s = .next s ∧ exec .eosIdle s = .next s

/-- R111: `SOF` puts the block in frame with every frame register at its idle value, and changes nothing else. -/
def Obligations.SofStartsFreshFrame : Prop :=
  ∀ s : State, exec .sof s = .next { s with
    scan := .inFrame, esc := false, asm := .lenHi, len := 0, rem := 0, sum := 0, wr := 0 }

/-- R120: `ESC_MARK` sets `esc`; `asm`, `len`, `rem`, `sum`, `wr` and `buf` keep their values and nothing is delivered. -/
def Obligations.EscMarkSetsEscOnly : Prop :=
  ∀ s : State, exec .escMark s = .next { s with esc := true }

/-- R121, R122: `ESC_BYTE` delivers b XOR 0x20 and clears `esc`, `PLAIN_BYTE` delivers b; what the delivered byte u then
does is the assembler operation that `asm` selects, given here in full for each value of `asm`. The premises say when the
operation completes: `wr` is an address of the buffer, or every byte of the frame was written. -/
def Obligations.RawByteResult : Prop :=
  ∀ (s : State) (b u : Byte) (i : Instr), (i, u) ∈ [(Instr.escByte b, b ^^^ 0x20), (Instr.plainByte b, b)] →
    (s.asm = .lenHi → exec i s = .next { s with esc := false, len := u.setWidth 16 <<< 8, asm := .lenLo }) ∧
    (s.asm = .lenLo → exec i s = .next { s with
      esc := false, len := s.len ||| u.setWidth 16, rem := s.len ||| u.setWidth 16,
      asm := if s.len ||| u.setWidth 16 = 0 then .csum else .payload }) ∧
    (s.asm = .payload → s.wr.toNat < s.params.bufBytes → exec i s = .next { s with
      esc := false, buf := Memory.write s.buf s.wr.toNat u, wr := s.wr + 1, sum := s.sum + u, rem := s.rem - 1,
      asm := if s.rem - 1 = 0 then .csum else .payload }) ∧
    (∀ frame, s.asm = .csum → s.sum + u = 0xFF → verifiedFrame s = some frame → exec i s = .next { s with
      out := some (frameEvent s.params.schema frame),
      scan := .seek, esc := false, asm := .lenHi, len := 0, rem := 0, sum := 0, wr := 0 }) ∧
    (s.asm = .csum → s.sum + u ≠ 0xFF → exec i s = .next { s with
      diag := some .checksumFailed,
      scan := .seek, esc := false, asm := .lenHi, len := 0, rem := 0, sum := 0, wr := 0 })

/-- R123: `EOS_TRUNC` emits `TRUNCATED` and brings every frame register to idle, for either value of `esc` and any value
of `asm`; there is no record-port event. -/
def Obligations.EosTruncReportsTruncated : Prop :=
  ∀ s : State, exec .eosTrunc s = .next { s with
    diag := some .truncated, scan := .seek, esc := false, asm := .lenHi, len := 0, rem := 0, sum := 0, wr := 0 }

/-! ## Assembler operations -/

/-- R130: `LENHI` gives `len` the high byte u, its low byte 0, and moves to `LEN_LO`. -/
def Obligations.LenHiResult : Prop :=
  ∀ (s : State) (u : Byte), ∃ t, exec (.lenHi u) s = .next t ∧ t = { s with len := t.len, asm := .lenLo } ∧
    t.len.toNat = u.toNat * 256

/-- R131: `LENLO` completes `len` by OR, loads `rem` with it, and moves to `PAYLOAD`, or to `CSUM` when the length
is 0; after `LENHI` (low byte 0) the length is the big-endian value of the two bytes. -/
def Obligations.LenLoResult : Prop :=
  ∀ (s : State) (u : Byte),
    exec (.lenLo u) s = .next { s with
      len := s.len ||| u.setWidth 16, rem := s.len ||| u.setWidth 16,
      asm := if s.len ||| u.setWidth 16 = 0 then .csum else .payload } ∧
    (∀ h : Byte, s.len.toNat = h.toNat * 256 → (s.len ||| u.setWidth 16).toNat = be [h, u])

/-- R132: `COLLECT` stores u at `wr` and nowhere else, counts it, adds it to `sum` modulo 256, counts `rem` down, and
moves to `CSUM` when `rem` reaches 0. The premise is that `wr` is an address of the buffer (20_memory.md R51). -/
def Obligations.CollectResult : Prop :=
  ∀ (s : State) (u : Byte), s.wr.toNat < s.params.bufBytes →
    ∃ t, exec (.collect u) s = .next t ∧
      t = { s with buf := t.buf, wr := s.wr + 1, sum := t.sum, rem := s.rem - 1, asm := t.asm } ∧
      (∀ a, Memory.read t.buf a = if a = s.wr.toNat then some u else Memory.read s.buf a) ∧
      t.sum.toNat = (s.sum.toNat + u.toNat) % 256 ∧ t.asm = (if s.rem - 1 = 0 then .csum else .payload)

/-- Where the model stops by name, both model's choices (log 6, log 4): a write at an address the buffer does not have
(20_memory.md section 1: addresses 0 .. BUFBYTES - 1), and a Verified Frame with a byte that nothing has written
(10_state.md section 3: unspecified). -/
def Obligations.StopsAreNamed : Prop :=
  (∀ (s : State) (u : Byte), ¬ s.wr.toNat < s.params.bufBytes → exec (.collect u) s = .fault .noSuchBufferAddress) ∧
  (∀ (s : State) (u : Byte) (a : Nat), a < s.len.toNat → Memory.read s.buf a = none →
    exec (.checkGood u) s = .fault .unwrittenBufferByte)

/-- R133: `CHECK`, good, puts the event of the Verified Frame `buf[0..len)` on the record port and brings every frame
register to idle, leaving `buf`. The premise is that the frame's bytes were written (20_memory.md R58). -/
def Obligations.CheckGoodResult : Prop :=
  ∀ (s : State) (u : Byte) (frame : List Byte), Memory.readBytes s.buf 0 s.len.toNat = some frame →
    exec (.checkGood u) s = .next { s with
      out := some (frameEvent s.params.schema frame),
      scan := .seek, esc := false, asm := .lenHi, len := 0, rem := 0, sum := 0, wr := 0 }

/-- R134: `CHECK`, bad, emits `CHECKSUM_FAILED`, nothing on the record port, and brings every frame register to idle. -/
def Obligations.CheckBadResult : Prop :=
  ∀ (s : State) (u : Byte), exec (.checkBad u) s = .next { s with
    diag := some .checksumFailed, scan := .seek, esc := false, asm := .lenHi, len := 0, rem := 0, sum := 0, wr := 0 }

/-- R135: two zero length bytes lead straight to the checksum, which is good exactly when it is 0xFF; a good one gives
`DecodeFailure(none, EMPTY_FRAME, none)`. -/
def Obligations.ZeroLengthFrame : Prop :=
  (∀ s : State, s.asm = .lenLo → s.len = 0 → s.sum = 0 →
    ∃ t, exec (.plainByte 0) s = .next t ∧ t.asm = .csum ∧ t.len = 0 ∧ t.sum = 0 ∧ t.buf = s.buf) ∧
  (∀ (s : State) (u : Byte), s.asm = .csum → s.len = 0 → s.sum = 0 →
    exec (.plainByte u) s = .next (if u = 0xFF
      then resync { s with out := some (.decodeFailure none .emptyFrame none) }
      else resync { s with diag := some .checksumFailed }))

/-! ## Frame-level operations: the records -/

/-- R170: `MODEM_STATUS`. -/
def Obligations.ModemStatusRecord : Prop :=
  ∀ (s : State) (body frame : List Byte), s.params.schema = Schema.default → frame = 0x8A :: body →
    exec (.modemStatus body) s = .next { s with
      out := some (shortOr frame [(.status, 2)]
        (.record .modemStatus [(.status, .u8 (read8 frame 1)), (.tail, tailFrom frame 2)])) }

/-- `AT_CMD`, with the default layout, by the spec general knowledge (log 11). -/
def Obligations.AtCmdRecord : Prop :=
  ∀ (s : State) (body frame : List Byte), s.params.schema = Schema.default → frame = 0x08 :: body →
    exec (.atCmd body) s = .next { s with
      out := some (shortOr frame [(.frameId, 2), (.command, 4)]
        (.record .atCmd [(.frameId, .u8 (read8 frame 1)), (.command, .bytes (memBytes frame 2 2)),
          (.parameter, tailFrom frame 4)])) }

/-- `AT_CMD_QUEUED`, with the default layout, by the spec general knowledge (log 11). -/
def Obligations.AtCmdQueuedRecord : Prop :=
  ∀ (s : State) (body frame : List Byte), s.params.schema = Schema.default → frame = 0x09 :: body →
    exec (.atCmdQueued body) s = .next { s with
      out := some (shortOr frame [(.frameId, 2), (.command, 4)]
        (.record .atCmdQueued [(.frameId, .u8 (read8 frame 1)), (.command, .bytes (memBytes frame 2 2)),
          (.parameter, tailFrom frame 4)])) }

/-- `AT_RESP`, with the default layout, by the spec general knowledge (log 11). -/
def Obligations.AtRespRecord : Prop :=
  ∀ (s : State) (body frame : List Byte), s.params.schema = Schema.default → frame = 0x88 :: body →
    exec (.atResp body) s = .next { s with
      out := some (shortOr frame [(.frameId, 2), (.command, 4), (.status, 5)]
        (.record .atResp [(.frameId, .u8 (read8 frame 1)), (.command, .bytes (memBytes frame 2 2)),
          (.status, .u8 (read8 frame 4)), (.value, tailFrom frame 5)])) }

/-- `REMOTE_AT_REQ`, with the default layout, by the spec general knowledge (log 11). -/
def Obligations.RemoteAtReqRecord : Prop :=
  ∀ (s : State) (body frame : List Byte), s.params.schema = Schema.default → frame = 0x17 :: body →
    exec (.remoteAtReq body) s = .next { s with
      out := some (shortOr frame [(.frameId, 2), (.dest64, 10), (.dest16, 12), (.options, 13), (.command, 15)]
        (.record .remoteAtReq [(.frameId, .u8 (read8 frame 1)), (.dest64, .u64 (read64 frame 2)),
          (.dest16, .u16 (read16 frame 10)), (.options, .u8 (read8 frame 12)),
          (.command, .bytes (memBytes frame 13 2)), (.parameter, tailFrom frame 15)])) }

/-- `REMOTE_AT_RESP`, with the default layout, by the spec general knowledge (log 11). -/
def Obligations.RemoteAtRespRecord : Prop :=
  ∀ (s : State) (body frame : List Byte), s.params.schema = Schema.default → frame = 0x97 :: body →
    exec (.remoteAtResp body) s = .next { s with
      out := some (shortOr frame [(.frameId, 2), (.src64, 10), (.src16, 12), (.command, 14), (.status, 15)]
        (.record .remoteAtResp [(.frameId, .u8 (read8 frame 1)), (.src64, .u64 (read64 frame 2)),
          (.src16, .u16 (read16 frame 10)), (.command, .bytes (memBytes frame 12 2)),
          (.status, .u8 (read8 frame 14)), (.value, tailFrom frame 15)])) }

/-- `TX_REQ`, with the default layout, by the spec general knowledge (log 11): the options byte must be 0x00 or 0x08. -/
def Obligations.TxReqRecord : Prop :=
  ∀ (s : State) (body frame : List Byte), s.params.schema = Schema.default → frame = 0x10 :: body →
    exec (.txReq body) s = .next { s with
      out := some (shortOr frame [(.frameId, 2), (.dest64, 10), (.dest16, 12), (.broadcastRadius, 13), (.options, 14)]
        (if read8 frame 13 = 0x00 ∨ read8 frame 13 = 0x08 then
          .record .txReq [(.frameId, .u8 (read8 frame 1)), (.dest64, .u64 (read64 frame 2)),
            (.dest16, .u16 (read16 frame 10)), (.broadcastRadius, .u8 (read8 frame 12)),
            (.options, .u8 (read8 frame 13)), (.rfData, tailFrom frame 14)]
        else .decodeFailure (some 0x10) .enumOutOfSet (some .options))) }

/-- `TX_EXPLICIT`, with the default layout, by the spec general knowledge (log 11): three checked fields, the lowest failing address reported. -/
def Obligations.TxExplicitRecord : Prop :=
  ∀ (s : State) (body frame : List Byte), s.params.schema = Schema.default → frame = 0x11 :: body →
    exec (.txExplicit body) s = .next { s with
      out := some (shortOr frame [(.frameId, 2), (.dest64, 10), (.dest16, 12), (.srcEndpoint, 13), (.dstEndpoint, 14),
          (.reserved, 15)]
        (if read8 frame 14 ≠ 0x00 then .decodeFailure (some 0x11) .constMismatch (some .reserved)
        else shortOr frame [(.clusterId, 16), (.profileId, 18)]
          (if read16 frame 16 ≠ 0xC105 then .decodeFailure (some 0x11) .constMismatch (some .profileId)
          else shortOr frame [(.broadcastRadius, 19), (.options, 20)]
            (if read8 frame 19 ≠ 0x00 ∧ read8 frame 19 ≠ 0x08 then
              .decodeFailure (some 0x11) .enumOutOfSet (some .options)
            else .record .txExplicit [(.frameId, .u8 (read8 frame 1)), (.dest64, .u64 (read64 frame 2)),
              (.dest16, .u16 (read16 frame 10)), (.srcEndpoint, .u8 (read8 frame 12)),
              (.dstEndpoint, .u8 (read8 frame 13)), (.reserved, .u8 (read8 frame 14)),
              (.clusterId, .u8 (read8 frame 15)), (.profileId, .u16 (read16 frame 16)),
              (.broadcastRadius, .u8 (read8 frame 18)), (.options, .u8 (read8 frame 19)),
              (.rfData, tailFrom frame 20)])))) }

/-- `TX_STATUS`, with the default layout, by the spec general knowledge (log 11). -/
def Obligations.TxStatusRecord : Prop :=
  ∀ (s : State) (body frame : List Byte), s.params.schema = Schema.default → frame = 0x8B :: body →
    exec (.txStatus body) s = .next { s with
      out := some (shortOr frame [(.frameId, 2), (.dest16, 4), (.retryCount, 5), (.deliveryStatus, 6), (.discoveryStatus, 7)]
        (.record .txStatus [(.frameId, .u8 (read8 frame 1)), (.dest16, .u16 (read16 frame 2)),
          (.retryCount, .u8 (read8 frame 4)), (.deliveryStatus, .u8 (read8 frame 5)),
          (.discoveryStatus, .u8 (read8 frame 6)), (.tail, tailFrom frame 7)])) }

/-- `RX_PACKET`, with the default layout, by the spec general knowledge (log 11). -/
def Obligations.RxPacketRecord : Prop :=
  ∀ (s : State) (body frame : List Byte), s.params.schema = Schema.default → frame = 0x90 :: body →
    exec (.rxPacket body) s = .next { s with
      out := some (shortOr frame [(.src64, 9), (.src16, 11), (.options, 12)]
        (.record .rxPacket [(.src64, .u64 (read64 frame 1)), (.src16, .u16 (read16 frame 9)),
          (.options, .u8 (read8 frame 11)), (.rfData, tailFrom frame 12)])) }

/-- `RX_EXPLICIT`, with the default layout, by the spec general knowledge (log 11); `profile_id` is a plain field here. -/
def Obligations.RxExplicitRecord : Prop :=
  ∀ (s : State) (body frame : List Byte), s.params.schema = Schema.default → frame = 0x91 :: body →
    exec (.rxExplicit body) s = .next { s with
      out := some (shortOr frame [(.src64, 9), (.src16, 11), (.srcEndpoint, 12), (.dstEndpoint, 13), (.clusterId, 15),
          (.profileId, 17), (.options, 18)]
        (.record .rxExplicit [(.src64, .u64 (read64 frame 1)), (.src16, .u16 (read16 frame 9)),
          (.srcEndpoint, .u8 (read8 frame 11)), (.dstEndpoint, .u8 (read8 frame 12)),
          (.clusterId, .u16 (read16 frame 13)), (.profileId, .u16 (read16 frame 15)),
          (.options, .u8 (read8 frame 17)), (.rfData, tailFrom frame 18)])) }

/-- `RX_SENSOR`, with the default layout, by the spec general knowledge (log 11): all five 16-bit values are always present. -/
def Obligations.RxSensorRecord : Prop :=
  ∀ (s : State) (body frame : List Byte), s.params.schema = Schema.default → frame = 0x94 :: body →
    exec (.rxSensor body) s = .next { s with
      out := some (shortOr frame [(.src64, 9), (.src16, 11), (.options, 12), (.sensors, 13), (.adc0, 15), (.adc1, 17),
          (.adc2, 19), (.adc3, 21), (.temperature, 23)]
        (.record .rxSensor [(.src64, .u64 (read64 frame 1)), (.src16, .u16 (read16 frame 9)),
          (.options, .u8 (read8 frame 11)), (.sensors, .u8 (read8 frame 12)), (.adc0, .u16 (read16 frame 13)),
          (.adc1, .u16 (read16 frame 15)), (.adc2, .u16 (read16 frame 17)), (.adc3, .u16 (read16 frame 19)),
          (.temperature, .u16 (read16 frame 21)), (.tail, tailFrom frame 23)])) }

/-- `RX_NODE_ID`, with the default layout, by the spec general knowledge (log 11): everything from address 22 is an opaque tail. -/
def Obligations.RxNodeIdRecord : Prop :=
  ∀ (s : State) (body frame : List Byte), s.params.schema = Schema.default → frame = 0x95 :: body →
    exec (.rxNodeId body) s = .next { s with
      out := some (shortOr frame [(.src64, 9), (.src16, 11), (.options, 12), (.remote16, 14), (.remote64, 22)]
        (.record .rxNodeId [(.src64, .u64 (read64 frame 1)), (.src16, .u16 (read16 frame 9)),
          (.options, .u8 (read8 frame 11)), (.remote16, .u16 (read16 frame 12)),
          (.remote64, .u64 (read64 frame 14)), (.tail, tailFrom frame 22)])) }

/-- R190, R191, R193, R194, R195, R196: `RX_IO_SAMPLE`. The flags are SupplyVoltage bit 4, AD3 bit 3, AD2 bit 2, AD1
bit 1, AD0 bit 0, tested in that order (`analogFlags`, `setChannels`), and bits 7..5 select nothing; the k-th set channel,
counted from 0 in that order, has its sample at `analogBase` + 2k; the digital samples word is at 16 exactly when the raw
digital mask is not 0; the tail follows the last sample. -/
def Obligations.RxIoSampleRecord : Prop :=
  ∀ (s : State) (body frame : List Byte) (dmask : U16) (amask : Byte), s.params.schema = Schema.default →
    frame = 0x92 :: body → dmask = read16 frame 13 → amask = read8 frame 15 →
    exec (.rxIoSample body) s = .next { s with
      out := some (shortOr frame [(.src64, 9), (.src16, 11), (.options, 12), (.sampleCount, 13), (.dmask, 15), (.amask, 16)]
        (shortOr frame
          ((if dmask = 0 then [] else [(.dsamples, 18)]) ++
            (setChannels amask).map (fun ck => (.asample ck.1, analogBase dmask + 2 * ck.2 + 2)))
          (.record .rxIoSample [(.src64, .u64 (read64 frame 1)), (.src16, .u16 (read16 frame 9)),
            (.options, .u8 (read8 frame 11)), (.sampleCount, .u8 (read8 frame 12)), (.dmask, .u16 dmask),
            (.amask, .u8 amask), (.dsamples, .optU16 (if dmask = 0 then none else some (read16 frame 16))),
            (.asamples, .samples
              ((setChannels amask).map (fun ck => (ck.1, read16 frame (analogBase dmask + 2 * ck.2))))),
            (.tail, tailFrom frame (analogBase dmask + 2 * analogCount amask))]))) }

/-- R153: `UNKNOWN` preserves the raw tag and the content bytes after it; it cannot fail. -/
def Obligations.UnknownRecord : Prop :=
  ∀ (s : State) (tag : Byte) (payload : List Byte),
    exec (.unknown tag payload) s = .next { s with out := some (.unknown tag payload) }

/-- R151: `EMPTY` gives `DecodeFailure(none, EMPTY_FRAME, none)`. -/
def Obligations.EmptyFrameFails : Prop :=
  ∀ s : State, exec .empty s = .next { s with out := some (.decodeFailure none .emptyFrame none) }

/-! ## Frames -/

/-- The frame of the sixteen frame-level operations, for any SCHEMA and in any state: each completes, and only the record
port changes ("No decoder writes a flag or a register", 45_fixed_records.md). -/
def Obligations.FrameLevelWritesRecordPortOnly : Prop :=
  ∀ (i : Instr) (s : State), isFrameLevel i = true → ∃ e, exec i s = .next { s with out := some e }

/-- The frame of every operation on the buffer, the pins and the parameters: every byte outside the address stored to
reads as before, all of them where nothing is stored (20_memory.md section 3). -/
def Obligations.OnlyCollectStores : Prop :=
  ∀ (i : Instr) (s t : State), exec i s = .next t →
    t.input = s.input ∧ t.params = s.params ∧ (storeAddr i s = none → t.buf = s.buf) ∧
      ∀ a, storeAddr i s ≠ some a → Memory.read t.buf a = Memory.read s.buf a

/-! ## The field engine -/

/-- 20_memory.md R56: `MemRead(a, n) = be(buf[a..a+n))` for the three widths the decoders read, and a byte run is the bytes
at its addresses; `be` is the big-endian value of 00_scope.md. -/
def Obligations.ReadsAreBigEndian : Prop :=
  be [] = 0 ∧ (∀ (bs : List Byte) (b : Byte), be (bs ++ [b]) = be bs * 256 + b.toNat) ∧
  ∀ (frame : List Byte) (a : Nat),
    (a + 1 ≤ frame.length → read8 frame a = frame.getD a 0) ∧
    (a + 2 ≤ frame.length →
      (read16 frame a).toNat = (frame.getD a 0).toNat * 256 + (frame.getD (a + 1) 0).toNat) ∧
    (a + 8 ≤ frame.length → (read64 frame a).toNat = be (memBytes frame a 8)) ∧
    (∀ n, a + n ≤ frame.length → (memBytes frame a n).length = n ∧
      ∀ i, i < n → (memBytes frame a n).getD i 0 = frame.getD (a + i) 0)

/-- R163: fields are checked strictly in format order, the decode stops at the first failure, whatever fields follow it,
and the event is the failure alone; a checked field that is both too short to read and wrong reports `SHORT_FRAME`. For
any format. -/
def Obligations.FirstFailureWins : Prop :=
  (∀ (v : Variant) (frame : List Byte) (before after : List Field) (f : Field) (tl : FieldName) (vs : Fields)
      (pos : Nat) (e : Failure),
    readFields frame before 1 = .ok (vs, pos) → readField frame f pos = .error e →
    runFields v ⟨before ++ f :: after, tl⟩ frame = .decodeFailure (some v.tag) e.reason (some e.field)) ∧
  (∀ (frame : List Byte) (name : FieldName) (pos : Nat) (c : Byte) (d : U16) (set : List Byte),
    (frame.length < pos + 1 → read8 frame pos ≠ c → readField frame (.const8 name c) pos = .error ⟨.shortFrame, name⟩) ∧
    (frame.length < pos + 2 → read16 frame pos ≠ d → readField frame (.const16 name d) pos = .error ⟨.shortFrame, name⟩) ∧
    (frame.length < pos + 1 → read8 frame pos ∉ set → readField frame (.enum8 name set) pos = .error ⟨.shortFrame, name⟩))

/-- R162: a field whose bytes would run past the frame stops the decode with `SHORT_FRAME` and its own name, and the test
is `pos + n > len`: so exactly then for the seven plain and checked kinds, for the two masks of an IO sample (the second if
the first fits), for its digital samples word (if the raw mask is not 0), and for its analog samples: the k-th set channel,
counted from 0 in the tested order, stops the decode exactly when the samples before it fit and its own two bytes do not. -/
def Obligations.ShortFrameTest : Prop :=
  (∀ (frame : List Byte) (f : Field) (name : FieldName) (n pos : Nat),
    (f = .u8 name ∧ n = 1 ∨ f = .u16 name ∧ n = 2 ∨ f = .u64 name ∧ n = 8 ∨ f = .bytes name n ∨
      (∃ c, f = .const8 name c) ∧ n = 1 ∨ (∃ c, f = .const16 name c) ∧ n = 2 ∨ (∃ set, f = .enum8 name set) ∧ n = 1) →
    (readField frame f pos = .error ⟨.shortFrame, name⟩ ↔ pos + n > frame.length)) ∧
  ∀ (frame : List Byte) (pos : Nat),
    (readField frame .ioSamples pos = .error ⟨.shortFrame, .dmask⟩ ↔ pos + 2 > frame.length) ∧
    (readField frame .ioSamples pos = .error ⟨.shortFrame, .amask⟩ ↔
      pos + 2 ≤ frame.length ∧ pos + 2 + 1 > frame.length) ∧
    (∀ dmask : U16, readDigital frame dmask pos = .error ⟨.shortFrame, .dsamples⟩ ↔
      dmask ≠ 0 ∧ pos + 2 > frame.length) ∧
    (∀ (amask : Byte) (c : Channel), readAnalog frame amask Channel.order pos = .error ⟨.shortFrame, .asample c⟩ ↔
      ∃ k, (c, k) ∈ setChannels amask ∧ (k = 0 ∨ pos + 2 * k ≤ frame.length) ∧ pos + 2 * k + 2 > frame.length)

/-- R157 to R161: what each field kind reads when its bytes are there: the plain kinds take any value, a constant must equal
its constant and an enumerated byte must be in its set, else `CONST_MISMATCH` or `ENUM_OUT_OF_SET`; the cursor moves past
the field, and the tail takes all that is left. The two addressing blocks are a `U64`, then a `U16`. -/
def Obligations.FieldKindsResult : Prop :=
  (∀ (frame : List Byte) (name : FieldName) (pos n : Nat), pos + n ≤ frame.length →
    (n = 1 → readField frame (.u8 name) pos = .ok ([(name, .u8 (read8 frame pos))], pos + 1)) ∧
    (n = 2 → readField frame (.u16 name) pos = .ok ([(name, .u16 (read16 frame pos))], pos + 2)) ∧
    (n = 8 → readField frame (.u64 name) pos = .ok ([(name, .u64 (read64 frame pos))], pos + 8)) ∧
    readField frame (.bytes name n) pos = .ok ([(name, .bytes (memBytes frame pos n))], pos + n) ∧
    (∀ c : Byte, n = 1 → readField frame (.const8 name c) pos =
      if read8 frame pos = c then .ok ([(name, .u8 (read8 frame pos))], pos + 1)
      else .error ⟨.constMismatch, name⟩) ∧
    (∀ c : U16, n = 2 → readField frame (.const16 name c) pos =
      if read16 frame pos = c then .ok ([(name, .u16 (read16 frame pos))], pos + 2)
      else .error ⟨.constMismatch, name⟩) ∧
    (∀ set : List Byte, n = 1 → readField frame (.enum8 name set) pos =
      if read8 frame pos ∈ set then .ok ([(name, .u8 (read8 frame pos))], pos + 1)
      else .error ⟨.enumOutOfSet, name⟩)) ∧
  (∀ (v : Variant) (frame : List Byte) (fields : List Field) (tl : FieldName) (vs : Fields) (pos : Nat),
    readFields frame fields 1 = .ok (vs, pos) → pos ≤ frame.length →
    runFields v ⟨fields, tl⟩ frame = .record v (vs ++ [(tl, tailFrom frame pos)]) ∧
      (pos = frame.length → tailFrom frame pos = .bytes [])) ∧
  outAddr = [.u64 .dest64, .u16 .dest16] ∧ inAddr = [.u64 .src64, .u16 .src16]

/-- "no content byte is dropped and none is read twice" (45_fixed_records.md, what the thirteen have in common), here for
any format at all, the IO sample's conditional block among them: the wire bytes of a record's fields, one after the other,
are the content after the tag. -/
def Obligations.RecordKeepsEveryByte : Prop :=
  ∀ (v v' : Variant) (fmt : Format) (tag : Byte) (body : List Byte) (fs : Fields),
    runFields v fmt (tag :: body) = .record v' fs → v' = v ∧ fs.flatMap (fun nv => valueBytes nv.2) = body

/-- "`Record` is produced iff `len` is at least that size" (46_io_sample.md, size law): a frame of tag 0x92 of at least
16 bytes gives a record exactly when its length is at least 16 + 2d + 2 popcount(amask[4:0]), the popcount over the mask's
bits 4..0 as numbered, and that size is between 16 and 28. -/
def Obligations.IoSampleSizeLaw : Prop :=
  ∀ (body frame : List Byte), frame = 0x92 :: body → 16 ≤ frame.length →
    ((∃ fs, frameEvent Schema.default frame = .record .rxIoSample fs) ↔
      analogBase (read16 frame 13) + 2 * analogCount (read8 frame 15) ≤ frame.length) ∧
    16 ≤ analogBase (read16 frame 13) + 2 * analogCount (read8 frame 15) ∧
    analogBase (read16 frame 13) + 2 * analogCount (read8 frame 15) ≤ 28

/-- "in the default `SCHEMA`, only `TX_REQ` ... and `TX_EXPLICIT`" raise `CONST_MISMATCH` or `ENUM_OUT_OF_SET`
(60_exceptions.md, causes): it rests on the default layouts (log 11). -/
def Obligations.OnlyTransmitRecordsAreChecked : Prop :=
  ∀ (frame : List Byte) (tag : Option Byte) (reason : Reason) (field : Option FieldName),
    frameEvent Schema.default frame = .decodeFailure tag reason field →
    reason = .constMismatch ∨ reason = .enumOutOfSet →
    (tag = some 0x10 ∧ field = some .options ∧ reason = .enumOutOfSet) ∨
    (tag = some 0x11 ∧ (field = some .reserved ∨ field = some .profileId ∨ field = some .options))

/-! ## Checksum and escape laws -/

/-- R74: a checksum byte k is good exactly when the sum of the content bytes and k is 0xFF modulo 256; equivalently
k = (0xFF - (sum mod 256)) mod 256; 0xFF for no content. The sum excludes the delimiter, the two length bytes and any
escape marker: their operations leave it at 0 and as it was. -/
def Obligations.ChecksumRule : Prop :=
  (∀ (content : List Byte) (k : Byte),
    (checksumGood (sumBytes content) k = true ↔ ((content.map BitVec.toNat).sum + k.toNat) % 256 = 0xFF) ∧
    (checksumGood (sumBytes content) k = true ↔ k.toNat = (0xFF - (content.map BitVec.toNat).sum % 256) % 256)) ∧
  (∀ k : Byte, checksumGood (sumBytes []) k = true ↔ k = 0xFF) ∧
  ∀ (s t : State) (u : Byte), (exec .sof s = .next t → t.sum = 0) ∧ (exec .escMark s = .next t → t.sum = s.sum) ∧
    (exec (.lenHi u) s = .next t → t.sum = s.sum) ∧ (exec (.lenLo u) s = .next t → t.sum = s.sum)

/-- "Changing any one content byte to a different value, with the checksum byte unchanged, makes a good frame bad"
(43_assembler.md, arithmetic laws). -/
def Obligations.OneByteMutationRejected : Prop :=
  ∀ (xs ys : List Byte) (b b' k : Byte), b ≠ b' → checksumGood (sumBytes (xs ++ b :: ys)) k = true →
    checksumGood (sumBytes (xs ++ b' :: ys)) k = false

/-- R75: the unescaped value of a pair has bit 5 inverted and the other seven bits unchanged, and applying it twice gives
the byte back; what is delivered is that value after a marker, and the byte itself without one. -/
def Obligations.UnescapedValue : Prop :=
  (∀ x : Byte, unescape x = x ^^^ 0x20 ∧ unescape (unescape x) = x ∧
    ∀ n : Fin 8, (unescape x).getLsbD n = (if n.val = 5 then !x.getLsbD n else x.getLsbD n)) ∧
  ∀ (s : State) (x : Byte), s.esc = false →
    exec (.escByte x) { s with esc := true } = deliver (unescape x) s ∧ exec (.plainByte x) s = deliver x s

/-! ## The whole machine -/

/-- The reset state meets the invariant. -/
def Obligations.InvariantAtReset : Prop := Inv State.reset

/-- The invariant is kept by every step, whatever the parameters and the pins: idle registers while seeking
(10_state.md section 6), the in-frame invariants, the buffer's canonical form and addresses, at most one event. -/
def Obligations.StepKeepsInvariant : Prop :=
  ∀ s t : State, Inv s → step s = .next t → Inv t

/-- "Nothing is fatal" (60_exceptions.md): with a buffer of at least 65535 bytes, a block that meets the invariant
answers a next state in every cycle, whatever the pins present. -/
def Obligations.NothingIsFatal : Prop :=
  ∀ s : State, Inv s → 65535 ≤ s.params.bufBytes → ∃ t, step s = .next t

/-- The output-count law, cycle by cycle (40_pipeline.md section 3; 41_scanner.md, return to seeking): a cycle presents at
most one event in total, and, outside reset, it presents one exactly when it brings the scanner from in-frame back to
seeking. In any state. -/
def Obligations.EventExactlyWhenFrameEnds : Prop :=
  ∀ s t : State, step s = .next t →
    (t.out = none ∨ t.diag = none) ∧
    ((∀ c, s.input.head? = some c → c.rst = false) → (t.event.isSome = true ↔ s.scan = .inFrame ∧ t.scan = .seek))

/-- "no decoded value is ever emitted for a checksum-failed or truncated frame" (40_pipeline.md section 1): a record-port
event comes only from a byte whose delivered value completes a good checksum, and is then the event of the Verified
Frame. In any state. -/
def Obligations.RecordOnlyFromGoodChecksum : Prop :=
  ∀ (s t : State) (e : OutEvent), step s = .next t → t.out = some e →
    ∃ (c : Cycle) (rest : List Cycle) (u : Byte) (frame : List Byte),
      s.input = c :: rest ∧ cycleToken c = some (.byte (if s.esc then unescape u else u)) ∧ s.scan = .inFrame ∧
      s.asm = .csum ∧ s.sum + u = 0xFF ∧ verifiedFrame s = some frame ∧ e = frameEvent s.params.schema frame

/-- No write can reach the schema ROM: no cycle, a reset among them, changes the parameters (20_memory.md section 5). -/
def Obligations.ParametersNeverChange : Prop :=
  ∀ s t : State, step s = .next t → t.params = s.params

/-- "no rule reads an address that the current frame has not written" (10_state.md section 3): two blocks that differ only
in buffer bytes at and above `wr` present the same events and go on differing only there. -/
def Obligations.StaleBytesNeverShow : Prop :=
  ∀ s s' t : State, Inv s → AgreeBelowWr s t → step s = .next s' → ∃ t', step t = .next t' ∧ AgreeBelowWr s' t'

/-- In a frame that meets the invariant at most 65535 + 3 unescaped bytes are still to come, and each raw byte either brings
the end strictly nearer, with `esc` cleared, the distance being 0 exactly when the scanner seeks again, or is a marker met
with `esc` = 0, after which the distance is as it was and `esc` is set (60_exceptions.md, nothing is fatal: "at most 65535 + 3
further unescaped bytes bring it back to idle"; what else a marker leaves unchanged is `EscMarkSetsEscOnly`). -/
def Obligations.FrameEndsInTime : Prop :=
  ∀ (s t : State) (b : Byte) (rest : List Cycle), Inv s → s.scan = .inFrame →
    s.input = tokenCycle (.byte b) :: rest → step s = .next t →
    remaining s ≤ 65535 + 3 ∧
    (s.esc = false ∧ b = 0x7D ∧ remaining t = remaining s ∧ t.esc = true ∨
      remaining t < remaining s ∧ t.esc = false ∧ (remaining t = 0 ↔ t.scan = .seek))

/-- The whole pipeline against the sender's notation: from idle, the raw bytes of a frame of any content c of at most
65535 bytes, escaped by any sender that escapes at least the marker, with any checksum byte k, give exactly one event, in
the beat of the last byte: the decode of c if k is good, `CHECKSUM_FAILED` if not; and the block is idle again, with the
cycles after the frame untouched (30_encoding.md sections 1, 2 and 6; 41_scanner.md; 43_assembler.md). -/
def Obligations.FrameYieldsItsOneEvent : Prop :=
  ∀ (s : State) (p : Byte → Bool) (c : List Byte) (k : Byte) (rest : List Cycle) (beat : Nat),
    Idle s → p 0x7D = true → c.length ≤ 65535 → c.length ≤ s.params.bufBytes →
    s.input = byteCycles (frameWith p c k) ++ rest →
    observe (frameWith p c k).length beat s =
      [(beat + (frameWith p c k).length - 1,
        if k = goodChecksum c then .out (frameEvent s.params.schema c) else .diag .checksumFailed)] ∧
    ∃ t, runFor (frameWith p c k).length s = .next t ∧ Idle t ∧ t.input = rest
end

