-- ==== Sys2Proof/Laws/Decode.lean ====
section
/-! SUPPORT. Small lemmas of the tag map and of the decoder's parts. -/

namespace Sys2Proof

@[simp] theorem Variant.mem_all (v : Variant) : v ∈ Variant.all := by cases v <;> decide

theorem Variant.tag_injective {v w : Variant} (h : v.tag = w.tag) : v = w := by
  revert h
  cases v <;> cases w <;> decide

/-- The tag lookup finds exactly the shape whose tag it is. -/
theorem Variant.ofTag_eq_some {t : Byte} {v : Variant} : Variant.ofTag t = some v ↔ v.tag = t := by
  constructor
  · intro h
    simpa using List.find?_some h
  · rintro rfl
    cases v <;> decide

@[simp] theorem Variant.ofTag_tag (v : Variant) : Variant.ofTag v.tag = some v := Variant.ofTag_eq_some.2 rfl

theorem Variant.ofTag_eq_none {t : Byte} : Variant.ofTag t = none ↔ ∀ v : Variant, v.tag ≠ t := by
  constructor
  · intro h v hv
    simp [Variant.ofTag_eq_some.2 hv] at h
  · intro h
    cases hv : Variant.ofTag t with
    | none => rfl
    | some v => exact absurd (Variant.ofTag_eq_some.1 hv) (h v)

@[simp] theorem encode_instr (v : Variant) (body : List Byte) : encode (v.instr body) = .bytes (v.tag :: body) := by
  cases v <;> rfl

@[simp] theorem wellFormed_instr (v : Variant) (body : List Byte) : (v.instr body).wellFormed = bodyFits body := by
  cases v <;> rfl

@[simp] theorem selectedAt_instr (v : Variant) (body : List Byte) (site : Site) :
    (v.instr body).selectedAt site = (site == .frame) := by
  cases v <;> rfl

@[simp] theorem decodeFrame_tag (v : Variant) (body : List Byte) : decodeFrame (v.tag :: body) = v.instr body := by
  simp [decodeFrame]

end Sys2Proof
end

