-- ==== Sys2Proof/Laws/State.lean ====
section
/-! SUPPORT. What each named update of the state leaves in each field: one lemma per field per update, true by rfl. -/

namespace Sys2Proof.Machine

@[simp] theorem emitOut_scan (s : State) (e : OutEvent) : (emitOut s e).scan = s.scan := rfl
@[simp] theorem emitOut_esc (s : State) (e : OutEvent) : (emitOut s e).esc = s.esc := rfl
@[simp] theorem emitOut_asm (s : State) (e : OutEvent) : (emitOut s e).asm = s.asm := rfl
@[simp] theorem emitOut_len (s : State) (e : OutEvent) : (emitOut s e).len = s.len := rfl
@[simp] theorem emitOut_rem (s : State) (e : OutEvent) : (emitOut s e).rem = s.rem := rfl
@[simp] theorem emitOut_sum (s : State) (e : OutEvent) : (emitOut s e).sum = s.sum := rfl
@[simp] theorem emitOut_wr (s : State) (e : OutEvent) : (emitOut s e).wr = s.wr := rfl
@[simp] theorem emitOut_buf (s : State) (e : OutEvent) : (emitOut s e).buf = s.buf := rfl
@[simp] theorem emitOut_out (s : State) (e : OutEvent) : (emitOut s e).out = some e := rfl
@[simp] theorem emitOut_diag (s : State) (e : OutEvent) : (emitOut s e).diag = s.diag := rfl
@[simp] theorem emitOut_input (s : State) (e : OutEvent) : (emitOut s e).input = s.input := rfl
@[simp] theorem emitOut_params (s : State) (e : OutEvent) : (emitOut s e).params = s.params := rfl

@[simp] theorem emitDiag_scan (s : State) (d : Diag) : (emitDiag s d).scan = s.scan := rfl
@[simp] theorem emitDiag_esc (s : State) (d : Diag) : (emitDiag s d).esc = s.esc := rfl
@[simp] theorem emitDiag_asm (s : State) (d : Diag) : (emitDiag s d).asm = s.asm := rfl
@[simp] theorem emitDiag_len (s : State) (d : Diag) : (emitDiag s d).len = s.len := rfl
@[simp] theorem emitDiag_rem (s : State) (d : Diag) : (emitDiag s d).rem = s.rem := rfl
@[simp] theorem emitDiag_sum (s : State) (d : Diag) : (emitDiag s d).sum = s.sum := rfl
@[simp] theorem emitDiag_wr (s : State) (d : Diag) : (emitDiag s d).wr = s.wr := rfl
@[simp] theorem emitDiag_buf (s : State) (d : Diag) : (emitDiag s d).buf = s.buf := rfl
@[simp] theorem emitDiag_out (s : State) (d : Diag) : (emitDiag s d).out = s.out := rfl
@[simp] theorem emitDiag_diag (s : State) (d : Diag) : (emitDiag s d).diag = some d := rfl
@[simp] theorem emitDiag_input (s : State) (d : Diag) : (emitDiag s d).input = s.input := rfl
@[simp] theorem emitDiag_params (s : State) (d : Diag) : (emitDiag s d).params = s.params := rfl

@[simp] theorem idleRegs_scan (s : State) : (idleRegs s).scan = s.scan := rfl
@[simp] theorem idleRegs_esc (s : State) : (idleRegs s).esc = false := rfl
@[simp] theorem idleRegs_asm (s : State) : (idleRegs s).asm = .lenHi := rfl
@[simp] theorem idleRegs_len (s : State) : (idleRegs s).len = 0 := rfl
@[simp] theorem idleRegs_rem (s : State) : (idleRegs s).rem = 0 := rfl
@[simp] theorem idleRegs_sum (s : State) : (idleRegs s).sum = 0 := rfl
@[simp] theorem idleRegs_wr (s : State) : (idleRegs s).wr = 0 := rfl
@[simp] theorem idleRegs_buf (s : State) : (idleRegs s).buf = s.buf := rfl
@[simp] theorem idleRegs_out (s : State) : (idleRegs s).out = s.out := rfl
@[simp] theorem idleRegs_diag (s : State) : (idleRegs s).diag = s.diag := rfl
@[simp] theorem idleRegs_input (s : State) : (idleRegs s).input = s.input := rfl
@[simp] theorem idleRegs_params (s : State) : (idleRegs s).params = s.params := rfl

@[simp] theorem startFrame_scan (s : State) : (startFrame s).scan = .inFrame := rfl
@[simp] theorem startFrame_esc (s : State) : (startFrame s).esc = false := rfl
@[simp] theorem startFrame_asm (s : State) : (startFrame s).asm = .lenHi := rfl
@[simp] theorem startFrame_len (s : State) : (startFrame s).len = 0 := rfl
@[simp] theorem startFrame_rem (s : State) : (startFrame s).rem = 0 := rfl
@[simp] theorem startFrame_sum (s : State) : (startFrame s).sum = 0 := rfl
@[simp] theorem startFrame_wr (s : State) : (startFrame s).wr = 0 := rfl
@[simp] theorem startFrame_buf (s : State) : (startFrame s).buf = s.buf := rfl
@[simp] theorem startFrame_out (s : State) : (startFrame s).out = s.out := rfl
@[simp] theorem startFrame_diag (s : State) : (startFrame s).diag = s.diag := rfl
@[simp] theorem startFrame_input (s : State) : (startFrame s).input = s.input := rfl
@[simp] theorem startFrame_params (s : State) : (startFrame s).params = s.params := rfl

@[simp] theorem resync_scan (s : State) : (resync s).scan = .seek := rfl
@[simp] theorem resync_esc (s : State) : (resync s).esc = false := rfl
@[simp] theorem resync_asm (s : State) : (resync s).asm = .lenHi := rfl
@[simp] theorem resync_len (s : State) : (resync s).len = 0 := rfl
@[simp] theorem resync_rem (s : State) : (resync s).rem = 0 := rfl
@[simp] theorem resync_sum (s : State) : (resync s).sum = 0 := rfl
@[simp] theorem resync_wr (s : State) : (resync s).wr = 0 := rfl
@[simp] theorem resync_buf (s : State) : (resync s).buf = s.buf := rfl
@[simp] theorem resync_out (s : State) : (resync s).out = s.out := rfl
@[simp] theorem resync_diag (s : State) : (resync s).diag = s.diag := rfl
@[simp] theorem resync_input (s : State) : (resync s).input = s.input := rfl
@[simp] theorem resync_params (s : State) : (resync s).params = s.params := rfl

@[simp] theorem collectByte_scan (s : State) (u : Byte) : (collectByte s u).scan = s.scan := rfl
@[simp] theorem collectByte_esc (s : State) (u : Byte) : (collectByte s u).esc = s.esc := rfl
@[simp] theorem collectByte_asm (s : State) (u : Byte) : (collectByte s u).asm = s.asm := rfl
@[simp] theorem collectByte_len (s : State) (u : Byte) : (collectByte s u).len = s.len := rfl
@[simp] theorem collectByte_rem (s : State) (u : Byte) : (collectByte s u).rem = s.rem := rfl
@[simp] theorem collectByte_sum (s : State) (u : Byte) : (collectByte s u).sum = s.sum := rfl
@[simp] theorem collectByte_wr (s : State) (u : Byte) : (collectByte s u).wr = s.wr := rfl
@[simp] theorem collectByte_buf (s : State) (u : Byte) : (collectByte s u).buf = Memory.write s.buf s.wr.toNat u := rfl
@[simp] theorem collectByte_out (s : State) (u : Byte) : (collectByte s u).out = s.out := rfl
@[simp] theorem collectByte_diag (s : State) (u : Byte) : (collectByte s u).diag = s.diag := rfl
@[simp] theorem collectByte_input (s : State) (u : Byte) : (collectByte s u).input = s.input := rfl
@[simp] theorem collectByte_params (s : State) (u : Byte) : (collectByte s u).params = s.params := rfl

@[simp] theorem nextCycle_scan (s : State) (r : List Cycle) : (nextCycle s r).scan = s.scan := rfl
@[simp] theorem nextCycle_esc (s : State) (r : List Cycle) : (nextCycle s r).esc = s.esc := rfl
@[simp] theorem nextCycle_asm (s : State) (r : List Cycle) : (nextCycle s r).asm = s.asm := rfl
@[simp] theorem nextCycle_len (s : State) (r : List Cycle) : (nextCycle s r).len = s.len := rfl
@[simp] theorem nextCycle_rem (s : State) (r : List Cycle) : (nextCycle s r).rem = s.rem := rfl
@[simp] theorem nextCycle_sum (s : State) (r : List Cycle) : (nextCycle s r).sum = s.sum := rfl
@[simp] theorem nextCycle_wr (s : State) (r : List Cycle) : (nextCycle s r).wr = s.wr := rfl
@[simp] theorem nextCycle_buf (s : State) (r : List Cycle) : (nextCycle s r).buf = s.buf := rfl
@[simp] theorem nextCycle_out (s : State) (r : List Cycle) : (nextCycle s r).out = none := rfl
@[simp] theorem nextCycle_diag (s : State) (r : List Cycle) : (nextCycle s r).diag = none := rfl
@[simp] theorem nextCycle_input (s : State) (r : List Cycle) : (nextCycle s r).input = r := rfl
@[simp] theorem nextCycle_params (s : State) (r : List Cycle) : (nextCycle s r).params = s.params := rfl

@[simp] theorem resetCycle_scan (s : State) (r : List Cycle) : (resetCycle s r).scan = .seek := rfl
@[simp] theorem resetCycle_esc (s : State) (r : List Cycle) : (resetCycle s r).esc = false := rfl
@[simp] theorem resetCycle_asm (s : State) (r : List Cycle) : (resetCycle s r).asm = .lenHi := rfl
@[simp] theorem resetCycle_len (s : State) (r : List Cycle) : (resetCycle s r).len = 0 := rfl
@[simp] theorem resetCycle_rem (s : State) (r : List Cycle) : (resetCycle s r).rem = 0 := rfl
@[simp] theorem resetCycle_sum (s : State) (r : List Cycle) : (resetCycle s r).sum = 0 := rfl
@[simp] theorem resetCycle_wr (s : State) (r : List Cycle) : (resetCycle s r).wr = 0 := rfl
@[simp] theorem resetCycle_buf (s : State) (r : List Cycle) : (resetCycle s r).buf = [] := rfl
@[simp] theorem resetCycle_out (s : State) (r : List Cycle) : (resetCycle s r).out = none := rfl
@[simp] theorem resetCycle_diag (s : State) (r : List Cycle) : (resetCycle s r).diag = none := rfl
@[simp] theorem resetCycle_input (s : State) (r : List Cycle) : (resetCycle s r).input = r := rfl
@[simp] theorem resetCycle_params (s : State) (r : List Cycle) : (resetCycle s r).params = s.params := rfl

end Sys2Proof.Machine
end

