-- ==== Sys2Proof/Laws/Exec.lean ====
section
/-! SUPPORT. What the shared operations of the machine can do, said once: the dispatcher, the delivery of a byte, and the
step. Proofs cite these and do not unfold the operations. -/

namespace Sys2Proof.Machine

/-! ## The dispatcher -/

theorem execVariant_eq (v : Variant) (body : List Byte) (s : State) : execVariant v body s = runRecord v body s := by
  cases v <;> rfl

theorem exec_instr (v : Variant) (body : List Byte) (s : State) : exec (v.instr body) s = runRecord v body s := by
  cases v <;> rfl

/-- The dispatcher answers a next state on every frame: the frame's one event on the record port. -/
theorem execFrame_eq (frame : List Byte) (s : State) :
    execFrame frame s = .next (emitOut s (frameEvent s.params.schema frame)) := by
  cases frame with
  | nil => rfl
  | cons tag body =>
    simp only [execFrame, frameEvent]
    cases Variant.ofTag tag with
    | none => rfl
    | some v => exact execVariant_eq v body s

/-! ## The checksum beat -/

theorem execCheckGood_of_frame {s : State} {frame : List Byte} (u : Byte) (h : verifiedFrame s = some frame) :
    execCheckGood u s = .next (resync (emitOut s (frameEvent s.params.schema frame))) := by
  simp [execCheckGood, h, execFrame_eq, thenResync]

theorem execCheckGood_of_none {s : State} (u : Byte) (h : verifiedFrame s = none) :
    execCheckGood u s = .fault .unwrittenBufferByte := by
  simp [execCheckGood, h]

/-! ## Delivery -/

/-- The state `COLLECT` leaves. -/
def collectedState (u : Byte) (s : State) : State :=
  { collectByte s u with
    wr := s.wr + 1, sum := sumAdd s.sum u, rem := s.rem - 1, asm := if s.rem - 1 = 0 then .csum else .payload }

theorem execCollect_eq (u : Byte) (s : State) :
    execCollect u s = if s.wr.toNat < s.params.bufBytes then .next (collectedState u s) else .fault .noSuchBufferAddress :=
  rfl

/-- The state `LENHI` leaves. -/
def lenHiState (u : Byte) (s : State) : State := { s with len := u.setWidth 16 <<< 8, asm := .lenLo }

/-- The state `LENLO` leaves. -/
def lenLoState (u : Byte) (s : State) : State :=
  { s with
    len := joinedLength s u, rem := joinedLength s u, asm := if joinedLength s u = 0 then .csum else .payload }

/-- Everything a delivered byte can do when it answers a next state. -/
theorem deliver_cases {u : Byte} {s t : State} (h : deliver u s = .next t) :
    (s.asm = .lenHi ∧ t = lenHiState u s) ∨
    (s.asm = .lenLo ∧ t = lenLoState u s) ∨
    (s.asm = .payload ∧ s.wr.toNat < s.params.bufBytes ∧ t = collectedState u s) ∨
    (s.asm = .csum ∧ checksumGood s.sum u = true ∧
      ∃ frame, verifiedFrame s = some frame ∧ t = resync (emitOut s (frameEvent s.params.schema frame))) ∨
    (s.asm = .csum ∧ checksumGood s.sum u = false ∧ t = resync (emitDiag s .checksumFailed)) := by
  unfold deliver at h
  split at h
  · next ha =>
    cases h
    exact .inl ⟨ha, rfl⟩
  · next ha =>
    cases h
    exact .inr (.inl ⟨ha, rfl⟩)
  · next ha =>
    rw [execCollect_eq] at h
    split at h
    · next hb =>
      cases h
      exact .inr (.inr (.inl ⟨ha, hb, rfl⟩))
    · cases h
  · next ha =>
    split at h
    · next hg =>
      cases hf : verifiedFrame s with
      | none =>
        rw [execCheckGood_of_none u hf] at h
        cases h
      | some frame =>
        rw [execCheckGood_of_frame u hf] at h
        cases h
        exact .inr (.inr (.inr (.inl ⟨ha, hg, frame, rfl, rfl⟩)))
    · next hg =>
      cases h
      exact .inr (.inr (.inr (.inr ⟨ha, by simpa using hg, rfl⟩)))

/-! ## The step -/

theorem step_nil {s : State} (h : s.input = []) : step s = .next (nextCycle s []) := by
  simp [step, fetch, h]

theorem step_rst {s : State} {c : Cycle} {rest : List Cycle} (h : s.input = c :: rest) (hr : c.rst = true) :
    step s = .next (resetCycle s rest) := by
  simp [step, fetch, h, hr]

theorem step_idle {s : State} {c : Cycle} {rest : List Cycle} (h : s.input = c :: rest) (hr : c.rst = false)
    (ht : cycleToken c = none) : step s = .next (nextCycle s rest) := by
  simp [step, fetch, h, hr, ht]

theorem step_token {s : State} {c : Cycle} {rest : List Cycle} {t : Token} (h : s.input = c :: rest)
    (hr : c.rst = false) (ht : cycleToken c = some t) :
    step s = exec (decodeToken s.scan s.esc t) (nextCycle s rest) := by
  simp [step, fetch, h, hr, ht]

/-- Everything a token can do: seven operations. -/
theorem exec_decodeToken_cases (s s' : State) (t : Token) :
    (s.scan = .seek ∧ exec (decodeToken s.scan s.esc t) s' = .next s') ∨
    (s.scan = .seek ∧ t = .byte Config.delim ∧ exec (decodeToken s.scan s.esc t) s' = .next (startFrame s')) ∨
    (s.scan = .inFrame ∧ t = .eos ∧
      exec (decodeToken s.scan s.esc t) s' = .next (resync (emitDiag s' .truncated))) ∨
    (s.scan = .inFrame ∧ s.esc = false ∧ t = .byte Config.esc ∧
      exec (decodeToken s.scan s.esc t) s' = .next { s' with esc := true }) ∨
    (s.scan = .inFrame ∧ ∃ u b, t = .byte b ∧ u = (if s.esc then unescape b else b) ∧ (s.esc = false → b ≠ Config.esc) ∧
      exec (decodeToken s.scan s.esc t) s' = deliver u { s' with esc := false }) := by
  cases hs : s.scan with
  | seek =>
    cases t with
    | eos => exact .inl ⟨rfl, rfl⟩
    | byte b =>
      by_cases hb : b = Config.delim
      · subst hb
        exact .inr (.inl ⟨rfl, rfl, rfl⟩)
      · exact .inl ⟨rfl, by simp [decodeToken, hb, exec, execSkip]⟩
  | inFrame =>
    cases t with
    | eos => exact .inr (.inr (.inl ⟨rfl, rfl, rfl⟩))
    | byte b =>
      cases he : s.esc with
      | true => exact .inr (.inr (.inr (.inr ⟨rfl, unescape b, b, rfl, rfl, by simp, rfl⟩)))
      | false =>
        by_cases hb : b = Config.esc
        · subst hb
          exact .inr (.inr (.inr (.inl ⟨rfl, rfl, rfl, rfl⟩)))
        · exact .inr (.inr (.inr (.inr ⟨rfl, b, b, rfl, rfl, fun _ => hb,
            by simp [decodeToken, hb, exec, execPlainByte]⟩)))

/-- Everything a cycle can do when it answers a next state. -/
theorem step_cases {s t : State} (h : step s = .next t) :
    (∃ rest, t = nextCycle s rest) ∨
    (∃ rest, t = resetCycle s rest) ∨
    (∃ rest, s.scan = .seek ∧ t = startFrame (nextCycle s rest)) ∨
    (∃ rest, s.scan = .inFrame ∧ t = resync (emitDiag (nextCycle s rest) .truncated)) ∨
    (∃ rest, s.scan = .inFrame ∧ s.esc = false ∧ t = { nextCycle s rest with esc := true }) ∨
    (∃ rest u, s.scan = .inFrame ∧ deliver u { nextCycle s rest with esc := false } = .next t) := by
  cases hi : s.input with
  | nil =>
    rw [step_nil hi] at h
    cases h
    exact .inl ⟨[], rfl⟩
  | cons c rest =>
    cases hr : c.rst with
    | true =>
      rw [step_rst hi hr] at h
      cases h
      exact .inr (.inl ⟨rest, rfl⟩)
    | false =>
      cases ht : cycleToken c with
      | none =>
        rw [step_idle hi hr ht] at h
        cases h
        exact .inl ⟨rest, rfl⟩
      | some tok =>
        rw [step_token hi hr ht] at h
        obtain ⟨_, e⟩ | ⟨hs, _, e⟩ | ⟨hs, _, e⟩ | ⟨hs, he, _, e⟩ | ⟨hs, u, b, _, _, _, e⟩ :=
          exec_decodeToken_cases s (nextCycle s rest) tok
        · rw [e] at h
          cases h
          exact .inl ⟨rest, rfl⟩
        · rw [e] at h
          cases h
          exact .inr (.inr (.inl ⟨rest, hs, rfl⟩))
        · rw [e] at h
          cases h
          exact .inr (.inr (.inr (.inl ⟨rest, hs, rfl⟩)))
        · rw [e] at h
          cases h
          exact .inr (.inr (.inr (.inr (.inl ⟨rest, hs, he, rfl⟩))))
        · rw [e] at h
          exact .inr (.inr (.inr (.inr (.inr ⟨rest, u, hs, h⟩))))

end Sys2Proof.Machine
end

