-- ==== Sys2Proof/Laws/Fields.lean ====
section
/-! SUPPORT. Spec lemmas of the field engine: what a read of the frame gives, when a field read succeeds, and where it
leaves the cursor. -/

namespace Sys2Proof.Machine

/-! ## Big-endian values -/

theorem be_append_byte (bs : List Byte) (b : Byte) : be (bs ++ [b]) = be bs * 256 + b.toNat := by
  simp [be]

/-- `n` bytes make a number of `8 n` bits. -/
theorem be_lt (bs : List Byte) : be bs < 256 ^ bs.length := by
  induction bs using List.reverseRecOn with
  | nil => simp [be]
  | append_singleton bs b ih =>
    rw [be_append_byte, List.length_append, List.length_singleton, pow_succ]
    have := b.isLt
    omega

theorem fits_iff {frame : List Byte} {pos n : Nat} : fits frame pos n = true ↔ pos + n ≤ frame.length := by
  simp [fits]

theorem memBytes_length {frame : List Byte} {a n : Nat} (h : a + n ≤ frame.length) : (memBytes frame a n).length = n := by
  simp only [memBytes, List.length_take, List.length_drop]
  omega

/-- A run of bytes is its first byte and the run after it. -/
theorem memBytes_succ {frame : List Byte} {a n : Nat} (h : a < frame.length) :
    memBytes frame a (n + 1) = frame[a] :: memBytes frame (a + 1) n := by
  rw [memBytes, List.drop_eq_getElem_cons h, List.take_succ_cons, memBytes]

/-- Neighbouring runs join. -/
theorem memBytes_add (frame : List Byte) (a m n : Nat) :
    memBytes frame a (m + n) = memBytes frame a m ++ memBytes frame (a + m) n := by
  simp only [memBytes]
  rw [List.take_add, List.drop_drop]

/-! ## When a read succeeds -/

theorem readPlain_ok {frame : List Byte} {pos n : Nat} {name : FieldName} {v : Value} {r : Fields × Nat}
    (h : readPlain frame pos n name v = .ok r) : pos + n ≤ frame.length ∧ r = ([(name, v)], pos + n) := by
  unfold readPlain at h
  split at h
  · next hf =>
    cases h
    exact ⟨fits_iff.1 hf, rfl⟩
  · cases h

theorem readChecked_ok {frame : List Byte} {pos n : Nat} {name : FieldName} {v : Value} {good : Bool} {bad : Reason}
    {r : Fields × Nat} (h : readChecked frame pos n name v good bad = .ok r) :
    pos + n ≤ frame.length ∧ good = true ∧ r = ([(name, v)], pos + n) := by
  unfold readChecked at h
  split at h
  · next hf =>
    split at h
    · next hg =>
      cases h
      exact ⟨fits_iff.1 hf, hg, rfl⟩
    · cases h
  · cases h

/-- How many analog samples a list of channels selects. -/
def selected (amask : Byte) (cs : List Channel) : List Channel := cs.filter (Channel.isSet amask)

/-- The analog samples: one per set channel, two bytes apart, in the order given. -/
theorem readAnalog_ok {frame : List Byte} {amask : Byte} {cs : List Channel} {pos : Nat}
    {vs : List (Channel × U16)} {q : Nat} (h : readAnalog frame amask cs pos = .ok (vs, q)) :
    q = pos + 2 * (selected amask cs).length ∧ (pos ≤ frame.length → q ≤ frame.length) ∧
      vs = (selected amask cs).zipIdx.map (fun ck => (ck.1, read16 frame (pos + 2 * ck.2))) := by
  induction cs generalizing pos vs q with
  | nil =>
    cases h
    simp [selected]
  | cons c cs ih =>
    simp only [readAnalog] at h
    split at h
    · next hs =>
      split at h
      · next hf =>
        have hf := fits_iff.1 hf
        split at h
        · next vs' q' hr =>
          cases h
          obtain ⟨h1, h2, h3⟩ := ih hr
          have e : selected amask (c :: cs) = c :: selected amask cs := by simp [selected, hs]
          refine ⟨by rw [h1, e, List.length_cons]; omega, fun _ => h2 hf, ?_⟩
          rw [h3, e, List.zipIdx_cons']
          simp [Function.comp_def, Nat.mul_add, Nat.add_assoc, Nat.add_comm 2]
        · cases h
      · cases h
    · next hs =>
      obtain ⟨h1, h2, h3⟩ := ih h
      have e : selected amask (c :: cs) = selected amask cs := by simp [selected, hs]
      rw [e]
      exact ⟨h1, h2, h3⟩

theorem readDigital_ok {frame : List Byte} {dmask : U16} {pos : Nat} {d : Option U16} {q : Nat}
    (h : readDigital frame dmask pos = .ok (d, q)) :
    (dmask = 0 ∧ d = none ∧ q = pos) ∨
      (dmask ≠ 0 ∧ pos + 2 ≤ frame.length ∧ d = some (read16 frame pos) ∧ q = pos + 2) := by
  unfold readDigital at h
  split at h
  · next hd =>
    split at h
    · next hf =>
      cases h
      exact .inr ⟨by simpa using hd, fits_iff.1 hf, rfl, rfl⟩
    · cases h
  · next hd =>
    cases h
    exact .inl ⟨by simpa using hd, rfl, rfl⟩

/-- The IO sample's conditional block, when it fits. -/
theorem readIoSamples_ok {frame : List Byte} {pos : Nat} {fs : Fields} {q : Nat}
    (h : readIoSamples frame pos = .ok (fs, q)) :
    pos + 3 ≤ frame.length ∧ ∃ d p vs, readDigital frame (read16 frame pos) (pos + 3) = .ok (d, p) ∧
      readAnalog frame (read8 frame (pos + 2)) Channel.order p = .ok (vs, q) ∧
      fs = [(.dmask, .u16 (read16 frame pos)), (.amask, .u8 (read8 frame (pos + 2))), (.dsamples, .optU16 d),
        (.asamples, .samples vs)] := by
  unfold readIoSamples at h
  split at h
  · split at h
    · next hf =>
      refine ⟨by have := fits_iff.1 hf; omega, ?_⟩
      unfold readSamples at h
      split at h
      · cases h
      · next d p hd =>
        split at h
        · cases h
        · next vs q' ha =>
          cases h
          exact ⟨d, p, vs, hd, ha, rfl⟩
    · cases h
  · cases h

end Sys2Proof.Machine
end

