-- ==== Sys2Proof/Laws/Memory.lean ====
section
/-! SUPPORT. The laws of the payload buffer: a read after a write, runs of bytes, and the canonical form, which every
operation keeps. -/

namespace Sys2Proof.Machine

theorem Memory.read_write_same (m : Memory) (a : Nat) (v : Byte) : (m.write a v).read a = some v := by
  induction m with
  | nil => simp [Memory.write, Memory.read]
  | cons c m ih =>
    obtain ⟨k, w⟩ := c
    simp only [Memory.write]
    split_ifs with h1 h2
    · simp [Memory.read]
    · simp [Memory.read]
    · simp [Memory.read, Ne.symm h2, ih]

theorem Memory.read_write_other (m : Memory) {a b : Nat} (v : Byte) (h : b ≠ a) :
    (m.write a v).read b = m.read b := by
  induction m with
  | nil => simp [Memory.write, Memory.read, Ne.symm h]
  | cons c m ih =>
    obtain ⟨k, w⟩ := c
    simp only [Memory.write]
    split_ifs with h1 h2
    · simp [Memory.read, Ne.symm h]
    · subst h2
      simp [Memory.read, Ne.symm h]
    · simp [Memory.read, ih]

/-! ## Runs of bytes -/

theorem Memory.readBytes_length {m : Memory} {a n : Nat} {bs : List Byte} (h : m.readBytes a n = some bs) :
    bs.length = n := by
  induction n generalizing a bs with
  | zero =>
    simp only [Memory.readBytes, Option.some.injEq] at h
    simp [← h]
  | succ n ih =>
    simp only [Memory.readBytes] at h
    split at h
    · next v vs _ hvs =>
      simp only [Option.some.injEq] at h
      simp [← h, ih hvs]
    · cases h

/-- Two buffers that agree on a run read the same run. -/
theorem Memory.readBytes_congr {m m' : Memory} {a n : Nat}
    (h : ∀ b, a ≤ b → b < a + n → m'.read b = m.read b) : m'.readBytes a n = m.readBytes a n := by
  induction n generalizing a with
  | zero => rfl
  | succ n ih =>
    simp only [Memory.readBytes]
    rw [h a (by omega) (by omega), ih fun b h1 h2 => h b (by omega) (by omega)]

/-- A longer run is the shorter one and the next byte. -/
theorem Memory.readBytes_succ_last (m : Memory) (a n : Nat) :
    m.readBytes a (n + 1) = (m.readBytes a n).bind fun bs => (m.read (a + n)).map fun v => bs ++ [v] := by
  induction n generalizing a with
  | zero => cases h : m.read a <;> simp [Memory.readBytes, h]
  | succ n ih =>
    have e : a + (n + 1) = a + 1 + n := by omega
    rw [Memory.readBytes, ih, Memory.readBytes, e]
    cases m.read a <;> cases m.readBytes (a + 1) n <;> cases m.read (a + 1 + n) <;> rfl

/-- Writing the byte after a run appends it to the run. -/
theorem Memory.readBytes_write_end (m : Memory) (n : Nat) (v : Byte) :
    (m.write n v).readBytes 0 (n + 1) = (m.readBytes 0 n).map fun bs => bs ++ [v] := by
  rw [Memory.readBytes_succ_last, Nat.zero_add, Memory.read_write_same,
    Memory.readBytes_congr fun b _ h => Memory.read_write_other m v (by omega)]
  cases m.readBytes 0 n <;> rfl

theorem Memory.readBytes_skip {k a : Nat} (h : k < a) (v : Byte) (m : Memory) (n : Nat) :
    Memory.readBytes ((k, v) :: m) a n = m.readBytes a n :=
  Memory.readBytes_congr fun b h1 _ => by simp [Memory.read, show k ≠ b by omega]

theorem Memory.readBytes_ofBytes (a : Nat) (bs : List Byte) :
    (Memory.ofBytes a bs).readBytes a bs.length = some bs := by
  induction bs generalizing a with
  | nil => rfl
  | cons b bs ih =>
    simp only [Memory.ofBytes, List.length_cons, Memory.readBytes]
    rw [Memory.readBytes_skip (by omega), ih]
    simp [Memory.read]

/-! ## The canonical form -/

theorem Memory.wfFrom_mono {lo lo' : Nat} {m : Memory} (h : lo' ≤ lo) (hw : Memory.wfFrom lo m = true) :
    Memory.wfFrom lo' m = true := by
  cases m with
  | nil => rfl
  | cons c m =>
    simp only [Memory.wfFrom, Bool.and_eq_true, decide_eq_true_eq] at hw ⊢
    exact ⟨by omega, hw.2⟩

theorem Memory.wfFrom_write {lo a : Nat} {m : Memory} (v : Byte) (ha : lo ≤ a) (hw : Memory.wfFrom lo m = true) :
    Memory.wfFrom lo (m.write a v) = true := by
  induction m generalizing lo with
  | nil => simp [Memory.write, Memory.wfFrom, ha]
  | cons c m ih =>
    obtain ⟨k, w⟩ := c
    simp only [Memory.wfFrom, Bool.and_eq_true, decide_eq_true_eq] at hw
    simp only [Memory.write]
    split_ifs with h1 h2
    · simp only [Memory.wfFrom, Bool.and_eq_true, decide_eq_true_eq]
      exact ⟨ha, by omega, hw.2⟩
    · subst h2
      simpa [Memory.wfFrom, ha] using hw.2
    · simp only [Memory.wfFrom, Bool.and_eq_true, decide_eq_true_eq]
      exact ⟨hw.1, ih (by omega) hw.2⟩

/-- A write keeps the canonical form. -/
theorem Memory.wf_write {m : Memory} (a : Nat) (v : Byte) (h : m.wf = true) : (m.write a v).wf = true :=
  Memory.wfFrom_write v (Nat.zero_le a) h

theorem Memory.wf_ofBytes_from (a : Nat) (bs : List Byte) : Memory.wfFrom a (Memory.ofBytes a bs) = true := by
  induction bs generalizing a with
  | nil => rfl
  | cons b bs ih => simp [Memory.ofBytes, Memory.wfFrom, ih]

/-- A buffer laid out from bytes is in canonical form. -/
theorem Memory.wf_ofBytes (a : Nat) (bs : List Byte) : (Memory.ofBytes a bs).wf = true :=
  Memory.wfFrom_mono (Nat.zero_le a) (Memory.wf_ofBytes_from a bs)

/-- A write at an address of the buffer keeps the addresses inside it. -/
theorem Memory.below_write {n : Nat} {m : Memory} {a : Nat} (v : Byte) (ha : a < n) (h : m.below n = true) :
    (m.write a v).below n = true := by
  induction m with
  | nil => simpa [Memory.write, Memory.below] using ha
  | cons c m ih =>
    obtain ⟨k, w⟩ := c
    simp only [Memory.below, List.all_cons, Bool.and_eq_true, decide_eq_true_eq] at h ih
    simp only [Memory.write]
    split_ifs with h1 h2 <;> simp only [Memory.below, List.all_cons, Bool.and_eq_true, decide_eq_true_eq]
    · exact ⟨ha, h⟩
    · exact ⟨ha, h.2⟩
    · exact ⟨h.1, ih h.2⟩

/-- The memory of the reset state is in canonical form. -/
theorem State.reset_buf_wf : State.reset.buf.wf = true := rfl

end Sys2Proof.Machine
end

