-- ==== Sys2Proof/Laws/PerInstr.lean ====
section
/-! SUPPORT. Facts about every operation as syntax, one lemma per constructor. The family `CodeFits`: the code of a
well-formed operation fits the place it arrives at, one byte for a stream or assembler operation, at most 65535 content
bytes for a frame operation (spec 00_scope.md R13, 30_encoding.md R73). -/

namespace Sys2Proof.Laws.CodeFits

/-- The largest number of bytes the place of an operation takes at once (00_scope.md R13, 30_encoding.md R73). -/
def room (i : Instr) : Nat := if i.selectedAt .frame then maxContent else 1

/-- The number of bytes of a code; the end-of-stream mark has none (00_scope.md R13). -/
def size : Code → Nat
  | .bytes bs => bs.length
  | .eos      => 0

/-- The code of a well-formed operation fits its place. -/
def Statement (i : Instr) : Prop := i.wellFormed = true → size (encode i) ≤ room i

theorem of_bodyFits {body : List Byte} (h : bodyFits body = true) : body.length + 1 ≤ maxContent := by
  simpa [bodyFits] using h

theorem skip (b : Byte) : Statement (.skip b) := fun _ => Nat.le_refl 1

theorem sof : Statement .sof := fun _ => Nat.le_refl 1

theorem eosIdle : Statement .eosIdle := fun _ => Nat.zero_le 1

theorem escMark : Statement .escMark := fun _ => Nat.le_refl 1

theorem escByte (b : Byte) : Statement (.escByte b) := fun _ => Nat.le_refl 1

theorem plainByte (b : Byte) : Statement (.plainByte b) := fun _ => Nat.le_refl 1

theorem eosTrunc : Statement .eosTrunc := fun _ => Nat.zero_le 1

theorem lenHi (u : Byte) : Statement (.lenHi u) := fun _ => Nat.le_refl 1

theorem lenLo (u : Byte) : Statement (.lenLo u) := fun _ => Nat.le_refl 1

theorem collect (u : Byte) : Statement (.collect u) := fun _ => Nat.le_refl 1

theorem checkGood (u : Byte) : Statement (.checkGood u) := fun _ => Nat.le_refl 1

theorem checkBad (u : Byte) : Statement (.checkBad u) := fun _ => Nat.le_refl 1

theorem modemStatus (body : List Byte) : Statement (.modemStatus body) := fun h => of_bodyFits h

theorem atCmd (body : List Byte) : Statement (.atCmd body) := fun h => of_bodyFits h

theorem atCmdQueued (body : List Byte) : Statement (.atCmdQueued body) := fun h => of_bodyFits h

theorem atResp (body : List Byte) : Statement (.atResp body) := fun h => of_bodyFits h

theorem remoteAtReq (body : List Byte) : Statement (.remoteAtReq body) := fun h => of_bodyFits h

theorem remoteAtResp (body : List Byte) : Statement (.remoteAtResp body) := fun h => of_bodyFits h

theorem txReq (body : List Byte) : Statement (.txReq body) := fun h => of_bodyFits h

theorem txExplicit (body : List Byte) : Statement (.txExplicit body) := fun h => of_bodyFits h

theorem txStatus (body : List Byte) : Statement (.txStatus body) := fun h => of_bodyFits h

theorem rxPacket (body : List Byte) : Statement (.rxPacket body) := fun h => of_bodyFits h

theorem rxExplicit (body : List Byte) : Statement (.rxExplicit body) := fun h => of_bodyFits h

theorem rxIoSample (body : List Byte) : Statement (.rxIoSample body) := fun h => of_bodyFits h

theorem rxSensor (body : List Byte) : Statement (.rxSensor body) := fun h => of_bodyFits h

theorem rxNodeId (body : List Byte) : Statement (.rxNodeId body) := fun h => of_bodyFits h

theorem unknown (tag : Byte) (payload : List Byte) : Statement (.unknown tag payload) :=
  fun h => of_bodyFits (Bool.and_elim_right h)

theorem empty : Statement .empty := fun _ => Nat.zero_le _

end Sys2Proof.Laws.CodeFits
end

