-- ==== Sys2Proof/Laws/Records.lean ====
section
/-! SUPPORT. The walk of a format as one equation per field kind: a bounds test, a value test where the kind has one, then
the rest of the walk. With them a record decoder unfolds into the chain of tests its rule of the spec lists. -/

namespace Sys2Proof.Machine

/-- The event of a walk that has already placed the fields `acc`. -/
def finish (variant : Variant) (tl : FieldName) (frame : List Byte) (acc : Fields) (r : FieldResult) : OutEvent :=
  match r with
  | .error e   => .decodeFailure (some variant.tag) e.reason (some e.field)
  | .ok (w, p) => .record variant (acc ++ (w ++ [(tl, tailFrom frame p)]))

theorem runFields_eq_finish (variant : Variant) (fmt : Format) (frame : List Byte) :
    runFields variant fmt frame = finish variant fmt.tail frame [] (readFields frame fmt.fixed 1) := by
  unfold runFields finish
  cases readFields frame fmt.fixed 1 <;> rfl

section walk

variable (variant : Variant) (tl : FieldName) (frame : List Byte) (acc : Fields) (fs : List Field) (pos : Nat)
  (name : FieldName)

theorem finish_nil : finish variant tl frame acc (readFields frame [] pos) = .record variant (acc ++ [(tl, tailFrom frame pos)]) :=
  rfl

theorem finish_cons_ok {f : Field} {v : Fields} {p : Nat} (h : readField frame f pos = .ok (v, p)) :
    finish variant tl frame acc (readFields frame (f :: fs) pos) =
      finish variant tl frame (acc ++ v) (readFields frame fs p) := by
  simp only [readFields, h]
  cases readFields frame fs p with
  | error e => rfl
  | ok wp => simp [finish]

theorem finish_cons_error {f : Field} {e : Failure} (h : readField frame f pos = .error e) :
    finish variant tl frame acc (readFields frame (f :: fs) pos) =
      .decodeFailure (some variant.tag) e.reason (some e.field) := by
  simp only [readFields, h, finish]

theorem finish_plain {f : Field} {n : Nat} {v : Value} (h : readField frame f pos = readPlain frame pos n name v) :
    finish variant tl frame acc (readFields frame (f :: fs) pos) =
      if frame.length < pos + n then .decodeFailure (some variant.tag) .shortFrame (some name)
      else finish variant tl frame (acc ++ [(name, v)]) (readFields frame fs (pos + n)) := by
  split_ifs with hl
  · refine finish_cons_error variant tl frame acc fs pos (e := ⟨.shortFrame, name⟩) ?_
    simp [h, readPlain, fits, Nat.not_le.2 hl]
  · refine finish_cons_ok variant tl frame acc fs pos ?_
    simp [h, readPlain, fits, Nat.le_of_not_lt hl]

theorem finish_checked {f : Field} {n : Nat} {v : Value} {good : Bool} {bad : Reason}
    (h : readField frame f pos = readChecked frame pos n name v good bad) :
    finish variant tl frame acc (readFields frame (f :: fs) pos) =
      if frame.length < pos + n then .decodeFailure (some variant.tag) .shortFrame (some name)
      else if good = true then finish variant tl frame (acc ++ [(name, v)]) (readFields frame fs (pos + n))
      else .decodeFailure (some variant.tag) bad (some name) := by
  split_ifs with hl hg
  · refine finish_cons_error variant tl frame acc fs pos (e := ⟨.shortFrame, name⟩) ?_
    simp [h, readChecked, fits, Nat.not_le.2 hl]
  · refine finish_cons_ok variant tl frame acc fs pos ?_
    simp [h, readChecked, fits, Nat.le_of_not_lt hl, hg]
  · refine finish_cons_error variant tl frame acc fs pos (e := ⟨bad, name⟩) ?_
    simp [h, readChecked, fits, Nat.le_of_not_lt hl, hg]

theorem finish_u8 : finish variant tl frame acc (readFields frame (.u8 name :: fs) pos) =
    if frame.length < pos + 1 then .decodeFailure (some variant.tag) .shortFrame (some name)
    else finish variant tl frame (acc ++ [(name, .u8 (read8 frame pos))]) (readFields frame fs (pos + 1)) :=
  finish_plain variant tl frame acc fs pos name rfl

theorem finish_u16 : finish variant tl frame acc (readFields frame (.u16 name :: fs) pos) =
    if frame.length < pos + 2 then .decodeFailure (some variant.tag) .shortFrame (some name)
    else finish variant tl frame (acc ++ [(name, .u16 (read16 frame pos))]) (readFields frame fs (pos + 2)) :=
  finish_plain variant tl frame acc fs pos name rfl

theorem finish_u64 : finish variant tl frame acc (readFields frame (.u64 name :: fs) pos) =
    if frame.length < pos + 8 then .decodeFailure (some variant.tag) .shortFrame (some name)
    else finish variant tl frame (acc ++ [(name, .u64 (read64 frame pos))]) (readFields frame fs (pos + 8)) :=
  finish_plain variant tl frame acc fs pos name rfl

theorem finish_bytes (n : Nat) : finish variant tl frame acc (readFields frame (.bytes name n :: fs) pos) =
    if frame.length < pos + n then .decodeFailure (some variant.tag) .shortFrame (some name)
    else finish variant tl frame (acc ++ [(name, .bytes (memBytes frame pos n))]) (readFields frame fs (pos + n)) :=
  finish_plain variant tl frame acc fs pos name rfl

theorem finish_const8 (c : Byte) : finish variant tl frame acc (readFields frame (.const8 name c :: fs) pos) =
    if frame.length < pos + 1 then .decodeFailure (some variant.tag) .shortFrame (some name)
    else if (read8 frame pos == c) = true then
      finish variant tl frame (acc ++ [(name, .u8 (read8 frame pos))]) (readFields frame fs (pos + 1))
    else .decodeFailure (some variant.tag) .constMismatch (some name) :=
  finish_checked variant tl frame acc fs pos name rfl

theorem finish_const16 (c : U16) : finish variant tl frame acc (readFields frame (.const16 name c :: fs) pos) =
    if frame.length < pos + 2 then .decodeFailure (some variant.tag) .shortFrame (some name)
    else if (read16 frame pos == c) = true then
      finish variant tl frame (acc ++ [(name, .u16 (read16 frame pos))]) (readFields frame fs (pos + 2))
    else .decodeFailure (some variant.tag) .constMismatch (some name) :=
  finish_checked variant tl frame acc fs pos name rfl

theorem finish_enum8 (set : List Byte) : finish variant tl frame acc (readFields frame (.enum8 name set :: fs) pos) =
    if frame.length < pos + 1 then .decodeFailure (some variant.tag) .shortFrame (some name)
    else if set.contains (read8 frame pos) = true then
      finish variant tl frame (acc ++ [(name, .u8 (read8 frame pos))]) (readFields frame fs (pos + 1))
    else .decodeFailure (some variant.tag) .enumOutOfSet (some name) :=
  finish_checked variant tl frame acc fs pos name rfl

end walk

/-! ## The same chain, in the statements' words -/

theorem shortOr_nil (frame : List Byte) (e : OutEvent) : shortOr frame [] e = e := rfl

theorem shortOr_cons (frame : List Byte) (name : FieldName) (n : Nat) (tbl : List (FieldName × Nat)) (e : OutEvent) :
    shortOr frame ((name, n) :: tbl) e =
      if frame.length < n then .decodeFailure frame.head? .shortFrame (some name) else shortOr frame tbl e := by
  simp only [shortOr, firstPast]
  split_ifs <;> rfl

/-- The machine's flag test and order select the channels of the spec's table. -/
theorem setChannels_eq (amask : Byte) : setChannels amask = (selected amask Channel.order).zipIdx := by
  have h : analogFlags = Channel.order.map fun c => (c, c.bit) := rfl
  rw [setChannels, h, List.filter_map, List.map_map]
  exact congrArg List.zipIdx (List.map_id _)

/-- As many channels are selected as there are ones among the bits 4..0. -/
theorem analogCount_eq (amask : Byte) : analogCount amask = (selected amask Channel.order).length := by
  revert amask
  decide

/-- The analog samples as a table of addresses: the first that does not fit stops the walk, else all are read. -/
theorem readAnalog_eq (frame : List Byte) (amask : Byte) (cs : List Channel) (pos : Nat) :
    readAnalog frame amask cs pos =
      match firstPast frame.length
        ((selected amask cs).zipIdx.map fun ck => (.asample ck.1, pos + 2 * ck.2 + 2)) with
      | some f => .error ⟨.shortFrame, f⟩
      | none   => .ok ((selected amask cs).zipIdx.map (fun ck => (ck.1, read16 frame (pos + 2 * ck.2))),
          pos + 2 * (selected amask cs).length) := by
  induction cs generalizing pos with
  | nil => rfl
  | cons c cs ih =>
    simp only [readAnalog]
    by_cases hs : Channel.isSet amask c = true
    · have e : selected amask (c :: cs) = c :: selected amask cs := by simp [selected, hs]
      have h1 : ∀ k, pos + 2 + 2 * k = pos + 2 * (k + 1) := by intro k; omega
      rw [if_pos hs, ih, e]
      simp only [List.zipIdx_cons', List.map_cons, List.map_map, Function.comp_def, Nat.mul_zero, Nat.add_zero,
        Prod.map_fst, Prod.map_snd, id_eq, firstPast, List.length_cons, h1, fits, decide_eq_true_eq]
      split_ifs with h2 h3 h3
      · omega
      · generalize firstPast frame.length _ = r
        cases r <;> rfl
      · rfl
      · omega
    · have e : selected amask (c :: cs) = selected amask cs := by simp [selected, hs]
      rw [if_neg hs, ih, e]

/-- A record decoder in a block whose ROM is the default: the walk of the default format, on the record port. -/
theorem exec_record {s : State} (hs : s.params.schema = Schema.default) (v : Variant) (body : List Byte) :
    exec (v.instr body) s = .next { s with
      out := some (finish v (Schema.default.format v).tail (v.tag :: body) []
        (readFields (v.tag :: body) (Schema.default.format v).fixed 1)) } := by
  rw [exec_instr, runRecord, hs, runFields_eq_finish]
  rfl

end Sys2Proof.Machine
end

