-- ==== Sys2Proof/Tests/Slice0.lean ====
section
/-! SUPPORT. Tests of the model on the spec's own examples, and a witness for every obligation that has hypotheses. Each
expected value is the spec's: 95_test_vectors.md, the Example of a rule, or a table of the rule named. -/

namespace Sys2Proof.Tests

open Sys2Proof Sys2Proof.Machine

/-! ## Helpers -/

/-- The state an outcome goes on with. -/
def nextOf (r : Host.Outcome State Fault Refusal) : Option State :=
  match r with
  | .next s    => some s
  | .fault _   => none
  | .refused _ => none

/-- The fault an outcome stops with. -/
def faultOf (r : Host.Outcome State Fault Refusal) : Option Fault :=
  match r with
  | .next _    => none
  | .fault f   => some f
  | .refused _ => none

/-- The record-port event of an operation run in the reset state. -/
def outOf (i : Instr) : Option OutEvent := (nextOf (exec i State.reset)).bind (fun s => s.out)

/-- A block in frame, with its registers given. -/
def mid (asm : Asm) (len rem : U16) (sum : Byte) (wr : U16) (content : List Byte) : State :=
  { State.reset with
    scan := .inFrame, asm := asm, len := len, rem := rem, sum := sum, wr := wr, buf := Memory.ofBytes 0 content }

/-- The same with a marker pending. -/
def marked (s : State) : State := { s with esc := true }

/-- The seven registers. -/
structure Regs where
  scan : Scan
  esc  : Bool
  asm  : Asm
  len  : U16
  rem  : U16
  sum  : Byte
  wr   : U16
  deriving DecidableEq, Repr

/-- The registers an outcome leaves. -/
def regsOf (r : Host.Outcome State Fault Refusal) : Option Regs :=
  (nextOf r).map (fun s => ⟨s.scan, s.esc, s.asm, s.len, s.rem, s.sum, s.wr⟩)

/-- The buffer an outcome leaves. -/
def bufOf (r : Host.Outcome State Fault Refusal) : Option Memory := (nextOf r).map (fun s => s.buf)

/-- The events an outcome leaves on the ports. -/
def eventsOf (r : Host.Outcome State Fault Refusal) : List Event :=
  match nextOf r with
  | some s => (s.out.map Event.out).toList ++ (s.diag.map Event.diag).toList
  | none   => []

/-- The idle values (10_state.md R32). -/
def idle : Regs := ⟨.seek, false, .lenHi, 0, 0, 0, 0⟩

/-- The 64-bit source address of the spec's inbound examples. -/
def pre : List Byte := [0x00, 0x13, 0xA2, 0x00, 0x40, 0x52, 0x2B, 0xAA]

/-- The block with one token presented. -/
def withToken (s : State) (t : Token) : State := { s with input := [tokenCycle t] }

/-! ## Well-formedness: an ill-formed term for each check -/

theorem test_skip_delimiter_ill_formed : Instr.wellFormed (.skip 0x7E) = false := by decide
theorem test_skip_other_well_formed : Instr.wellFormed (.skip 0x7D) = true := by decide
theorem test_plain_marker_ill_formed : Instr.wellFormed (.plainByte 0x7D) = false := by decide
theorem test_plain_delimiter_well_formed : Instr.wellFormed (.plainByte 0x7E) = true := by decide
theorem test_unknown_known_tag_ill_formed : Instr.wellFormed (.unknown 0x8A []) = false := by decide
theorem test_unknown_other_tag_well_formed : Instr.wellFormed (.unknown 0xA1 [1, 2, 3]) = true := by decide
theorem test_unknown_too_long_ill_formed : Instr.wellFormed (.unknown 0xA1 (List.replicate 65535 0)) = false := by
  simp [Instr.wellFormed, bodyFits, maxContent, -List.reduceReplicate]
theorem test_body_too_long_ill_formed : Instr.wellFormed (.modemStatus (List.replicate 65535 0)) = false := by
  simp [Instr.wellFormed, bodyFits, maxContent, -List.reduceReplicate]
theorem test_body_longest_well_formed : Instr.wellFormed (.modemStatus (List.replicate 65534 0)) = true := by
  simp [Instr.wellFormed, bodyFits, maxContent, -List.reduceReplicate]

/-! ## Decoding: one written-out code for each constructor (30_encoding.md R72, R76) -/

theorem test_decode_skip : decode (.stream .seek false) (.bytes [0x13]) = .ok (.skip 0x13) := rfl
theorem test_decode_sof : decode (.stream .seek false) (.bytes [0b01111110]) = .ok .sof := rfl
theorem test_decode_eosIdle : decode (.stream .seek false) .eos = .ok (.eosIdle) := rfl
theorem test_decode_escMark : decode (.stream .inFrame false) (.bytes [0b01111101]) = .ok (.escMark) := rfl
theorem test_decode_escByte : decode (.stream .inFrame true) (.bytes [0x5E]) = .ok (.escByte 0x5E) := rfl
theorem test_decode_plainByte : decode (.stream .inFrame false) (.bytes [0x7E]) = .ok (.plainByte 0x7E) := rfl
theorem test_decode_eosTrunc : decode (.stream .inFrame true) .eos = .ok (.eosTrunc) := rfl
theorem test_decode_lenHi : decode (.assembler .lenHi 0) (.bytes [0x01]) = .ok (.lenHi 0x01) := rfl
theorem test_decode_lenLo : decode (.assembler .lenLo 0) (.bytes [0x02]) = .ok (.lenLo 0x02) := rfl
theorem test_decode_collect : decode (.assembler .payload 0x8A) (.bytes [0x00]) = .ok (.collect 0x00) := rfl
theorem test_decode_checkGood : decode (.assembler .csum 0x8A) (.bytes [0x75]) = .ok (.checkGood 0x75) := rfl
theorem test_decode_checkBad : decode (.assembler .csum 0x8A) (.bytes [0x74]) = .ok (.checkBad 0x74) := rfl
theorem test_decode_modemStatus : decode .frame (.bytes [0b10001010, 0x52]) = .ok (.modemStatus [0x52]) := rfl
theorem test_decode_atCmd : decode .frame (.bytes [0b00001000, 0x52]) = .ok (.atCmd [0x52]) := rfl
theorem test_decode_atCmdQueued : decode .frame (.bytes [0b00001001, 0x52]) = .ok (.atCmdQueued [0x52]) := rfl
theorem test_decode_atResp : decode .frame (.bytes [0b10001000, 0x52]) = .ok (.atResp [0x52]) := rfl
theorem test_decode_remoteAtReq : decode .frame (.bytes [0b00010111, 0x52]) = .ok (.remoteAtReq [0x52]) := rfl
theorem test_decode_remoteAtResp : decode .frame (.bytes [0b10010111, 0x52]) = .ok (.remoteAtResp [0x52]) := rfl
theorem test_decode_txReq : decode .frame (.bytes [0b00010000, 0x52]) = .ok (.txReq [0x52]) := rfl
theorem test_decode_txExplicit : decode .frame (.bytes [0b00010001, 0x52]) = .ok (.txExplicit [0x52]) := rfl
theorem test_decode_txStatus : decode .frame (.bytes [0b10001011, 0x52]) = .ok (.txStatus [0x52]) := rfl
theorem test_decode_rxPacket : decode .frame (.bytes [0b10010000, 0x52]) = .ok (.rxPacket [0x52]) := rfl
theorem test_decode_rxExplicit : decode .frame (.bytes [0b10010001, 0x52]) = .ok (.rxExplicit [0x52]) := rfl
theorem test_decode_rxIoSample : decode .frame (.bytes [0b10010010, 0x52]) = .ok (.rxIoSample [0x52]) := rfl
theorem test_decode_rxSensor : decode .frame (.bytes [0b10010100, 0x52]) = .ok (.rxSensor [0x52]) := rfl
theorem test_decode_rxNodeId : decode .frame (.bytes [0b10010101, 0x52]) = .ok (.rxNodeId [0x52]) := rfl
theorem test_decode_unknown : decode .frame (.bytes [0xA1, 1, 2, 3]) = .ok (.unknown 0xA1 [1, 2, 3]) := rfl
theorem test_decode_empty : decode .frame (.bytes []) = .ok (.empty) := rfl

/-- A token is one byte, and the end of stream is no content (00_scope.md R13, 44_dispatcher.md R150). -/
theorem test_decode_rejects :
    decode (.stream .seek false) (.bytes [1, 2]) = .error .notOneToken ∧
    decode (.assembler .csum 0) .eos = .error .notOneByte ∧ decode .frame .eos = .error .notContent := ⟨rfl, rfl, rfl⟩

theorem test_decode_rejects_long_frame :
    decode .frame (.bytes (List.replicate 65536 0)) = .error .frameTooLong := by
  simp [decode, maxContent, -List.reduceReplicate]

/-! ## Codes (10_state.md R20, 60_exceptions.md R217; 46_io_sample.md R192, R193) -/

theorem test_state_codes :
    Scan.seek.code = 0 ∧ Scan.inFrame.code = 1 ∧ Asm.lenHi.code = 0 ∧ Asm.lenLo.code = 1 ∧ Asm.payload.code = 2 ∧
      Asm.csum.code = 3 := by decide
theorem test_cause_codes :
    Diag.code .checksumFailed = 1 ∧ Diag.code .truncated = 2 ∧ Reason.code .constMismatch = 1 ∧
      Reason.code .enumOutOfSet = 2 ∧ Reason.code .shortFrame = 3 ∧ Reason.code .emptyFrame = 4 := by decide
theorem test_dio_bits : dioBit 0 0x0001 = true ∧ dioBit 12 0x1000 = true ∧ dioBit 11 0x1000 = false := by decide
/-- 46_io_sample.md R193: the mask value of each flag; the reserved bits select nothing. -/
theorem test_analog_flags :
    [(0x10 : Byte), 0x08, 0x04, 0x02, 0x01, 0xE0].map (fun m => Channel.order.filter (Channel.isSet m)) =
      [[.supply], [.ad3], [.ad2], [.ad1], [.ad0], []] := by decide
/-- 95_test_vectors.md 1.2 and V64: masks 0x15 and 0x1F, in the tested order. -/
theorem test_analog_order :
    Channel.order.filter (Channel.isSet 0x15) = [.supply, .ad2, .ad0] ∧
    Channel.order.filter (Channel.isSet 0x1F) = [.supply, .ad3, .ad2, .ad1, .ad0] := by decide
/-- The statements' own table and count, against the same two lines and R193. -/
theorem test_analog_table :
    setChannels 0x15 = [(.supply, 0), (.ad2, 1), (.ad0, 2)] ∧ setChannels 0xE8 = [(.ad3, 0)] ∧
    setChannels 0x02 = [(.ad1, 0)] ∧ analogCount 0x15 = 3 ∧ analogCount 0x1F = 5 ∧ analogCount 0xE0 = 0 := by decide

/-! ## The arithmetic of 95_test_vectors.md V20 and V30 -/

theorem test_unescape_table :
    [(0x5E : Byte), 0x5D, 0x31, 0x33, 0x20, 0x00, 0x7D, 0x7E, 0xFF, 0x61].map unescape =
      [0x7E, 0x7D, 0x11, 0x13, 0x00, 0x20, 0x5D, 0x5E, 0xDF, 0x41] := by decide
theorem test_checksum_table :
    [[(0x8A : Byte), 0x00], [0x8A, 0x06], [], [0xFF], [0xA1, 0xFF, 0xFF], [0xA1, 1, 2, 3]].map goodChecksum =
      [0x75, 0x6F, 0xFF, 0x00, 0x60, 0x58] := by decide

/-! ## Stream operations (95_test_vectors.md 1.1, 3.2, 3.3) -/

theorem test_skip : nextOf (exec (.skip 0x13) State.reset) = some State.reset := rfl
theorem test_sof : regsOf (exec .sof State.reset) = some ⟨.inFrame, false, .lenHi, 0, 0, 0, 0⟩ := by decide
theorem test_eosIdle : nextOf (exec .eosIdle State.reset) = some State.reset := rfl
/-- 42_unescaper.md R120's example. -/
theorem test_escMark : regsOf (exec .escMark (mid .payload 2 2 0x10 0 [])) =
    some ⟨.inFrame, true, .payload, 2, 2, 0x10, 0⟩ := by decide
/-- V24, beats 5 and 7. -/
theorem test_escByte_collects :
    regsOf (exec (.escByte 0x5E) (marked (mid .payload 2 2 0 0 []))) =
      some ⟨.inFrame, false, .payload, 2, 1, 0x7E, 1⟩ ∧
    bufOf (exec (.escByte 0x5E) (marked (mid .payload 2 2 0 0 []))) = some [(0, 0x7E)] := by decide
theorem test_escByte_last_content : regsOf (exec (.escByte 0x5D) (marked (mid .payload 2 1 0x7E 1 [0x7E]))) =
    some ⟨.inFrame, false, .csum, 2, 0, 0xFB, 2⟩ := by decide
/-- P5, beat 5: a delimiter in frame is content. -/
theorem test_plainByte_delimiter : regsOf (exec (.plainByte 0x7E) (mid .payload 5 3 0x8A 2 [0x8A, 0x00])) =
    some ⟨.inFrame, false, .payload, 5, 2, 0x08, 3⟩ := by decide
/-- Scenario 1.1, beat 1. -/
theorem test_plainByte_length : regsOf (exec (.plainByte 0x00) (mid .lenHi 0 0 0 0 [])) =
    some ⟨.inFrame, false, .lenLo, 0, 0, 0, 0⟩ := by decide
/-- P6, beat 7. -/
theorem test_eosTrunc : regsOf (exec .eosTrunc (mid .payload 0x7E00 0x7DFC 0x01 4 [])) = some idle ∧
    eventsOf (exec .eosTrunc (mid .payload 0x7E00 0x7DFC 0x01 4 [])) = [.diag .truncated] := by decide
/-- V26. -/
theorem test_eosTrunc_marker_pending : regsOf (exec .eosTrunc (marked (mid .lenLo 0 0 0 0 []))) = some idle ∧
    eventsOf (exec .eosTrunc (marked (mid .lenLo 0 0 0 0 []))) = [.diag .truncated] := by decide

/-! ## Assembler operations (43_assembler.md examples; 95_test_vectors.md 1.1, 3.2) -/

theorem test_lenHi : regsOf (exec (.lenHi 0x7E) (mid .lenHi 0 0 0 0 [])) =
    some ⟨.inFrame, false, .lenLo, 0x7E00, 0, 0, 0⟩ := by decide
theorem test_lenLo : regsOf (exec (.lenLo 0x02) (mid .lenLo 0 0 0 0 [])) =
    some ⟨.inFrame, false, .payload, 2, 2, 0, 0⟩ := by decide
theorem test_lenLo_zero : regsOf (exec (.lenLo 0x00) (mid .lenLo 0 0 0 0 [])) =
    some ⟨.inFrame, false, .csum, 0, 0, 0, 0⟩ := by decide
theorem test_collect :
    regsOf (exec (.collect 0x8A) (mid .payload 2 2 0 0 [])) = some ⟨.inFrame, false, .payload, 2, 1, 0x8A, 1⟩ ∧
    bufOf (exec (.collect 0x8A) (mid .payload 2 2 0 0 [])) = some [(0, 0x8A)] := by decide
/-- P6, beat 6. -/
theorem test_collect_sum_wraps : regsOf (exec (.collect 0x75) (mid .payload 0x7E00 0x7DFD 0x8C 3 [2, 0x8A, 0])) =
    some ⟨.inFrame, false, .payload, 0x7E00, 0x7DFC, 0x01, 4⟩ := by decide
theorem test_checkGood :
    regsOf (exec (.checkGood 0x75) (mid .csum 2 0 0x8A 2 [0x8A, 0x00])) = some idle ∧
    eventsOf (exec (.checkGood 0x75) (mid .csum 2 0 0x8A 2 [0x8A, 0x00])) =
      [.out (.record .modemStatus [(.status, .u8 0), (.tail, .bytes [])])] := by decide
/-- V42, over a buffer that holds an earlier frame's bytes (10_state.md R28). -/
theorem test_checkGood_stale_bytes_hidden : eventsOf (exec (.checkGood 0x5E) (mid .csum 1 0 0xA1 1 [0xA1, 1, 2])) =
    [.out (.unknown 0xA1 [])] := by decide
theorem test_checkBad : regsOf (exec (.checkBad 0x74) (mid .csum 2 0 0x8A 2 [0x8A, 0x00])) = some idle ∧
    eventsOf (exec (.checkBad 0x74) (mid .csum 2 0 0x8A 2 [0x8A, 0x00])) = [.diag .checksumFailed] := by decide

/-! ## Records: the examples of 45_fixed_records.md, and V43 to V69 -/

/-- R170. -/
theorem test_modemStatus :
    outOf (.modemStatus [0x06]) = some
      (.record .modemStatus [(.status, .u8 0x06), (.tail, .bytes [])]) := by decide
/-- V43. -/
theorem test_modemStatus_short :
    outOf (.modemStatus []) = some
      (.decodeFailure (some 0x8A) .shortFrame (some .status)) := by decide
/-- R171. -/
theorem test_atCmd :
    outOf (.atCmd [0x01, 0x49, 0x44, 0x12, 0x34]) = some
      (.record .atCmd [(.frameId, .u8 0x01), (.command, .bytes [0x49, 0x44]), (.parameter, .bytes [0x12, 0x34])]) := by decide
/-- R171. -/
theorem test_atCmd_short :
    outOf (.atCmd [0x52, 0x4E]) = some
      (.decodeFailure (some 0x08) .shortFrame (some .command)) := by decide
/-- R172. -/
theorem test_atCmdQueued :
    outOf (.atCmdQueued [0x01, 0x42, 0x44, 0x07]) = some
      (.record .atCmdQueued [(.frameId, .u8 0x01), (.command, .bytes [0x42, 0x44]), (.parameter, .bytes [0x07])]) := by decide
/-- R173. -/
theorem test_atResp :
    outOf (.atResp [0x52, 0x4E, 0x4A, 0x03]) = some
      (.record .atResp [(.frameId, .u8 0x52), (.command, .bytes [0x4E, 0x4A]), (.status, .u8 0x03), (.value, .bytes [])]) := by decide
/-- R174. -/
theorem test_remoteAtReq :
    outOf (.remoteAtReq [0x01, 0x00, 0x13, 0xA2, 0x00, 0x40, 0x40, 0x11, 0x22, 0xFF, 0xFE, 0x02, 0x42, 0x48, 0x01]) = some
      (.record .remoteAtReq [(.frameId, .u8 0x01), (.dest64, .u64 0x0013A20040401122), (.dest16, .u16 0xFFFE), (.options, .u8 0x02), (.command, .bytes [0x42, 0x48]), (.parameter, .bytes [0x01])]) := by decide
/-- R175. -/
theorem test_remoteAtResp :
    outOf (.remoteAtResp [0x55, 0x00, 0x13, 0xA2, 0x00, 0x40, 0x52, 0x2B, 0xAA, 0x7D, 0x84, 0x53, 0x4C, 0x00, 0x40, 0x52, 0x2B, 0xAA]) = some
      (.record .remoteAtResp [(.frameId, .u8 0x55), (.src64, .u64 0x0013A20040522BAA), (.src16, .u16 0x7D84), (.command, .bytes [0x53, 0x4C]), (.status, .u8 0x00), (.value, .bytes [0x40, 0x52, 0x2B, 0xAA])]) := by decide
/-- P4. -/
theorem test_txReq :
    outOf (.txReq [0x01, 0x00, 0x00, 0x00, 0x00, 0x00, 0x00, 0xFF, 0xFF, 0xFF, 0xFE, 0x00, 0x08, 0x48, 0x69]) = some
      (.record .txReq [(.frameId, .u8 0x01), (.dest64, .u64 0x000000000000FFFF), (.dest16, .u16 0xFFFE), (.broadcastRadius, .u8 0x00), (.options, .u8 0x08), (.rfData, .bytes [0x48, 0x69])]) := by decide
/-- R176. -/
theorem test_txReq_bad_options :
    outOf (.txReq [0x01, 0x00, 0x13, 0xA2, 0x00, 0x40, 0x0A, 0x01, 0x27, 0xFF, 0xFE, 0x00, 0x01]) = some
      (.decodeFailure (some 0x10) .enumOutOfSet (some .options)) := by decide
/-- V50. -/
theorem test_txExplicit :
    outOf (.txExplicit [0x05, 0x00, 0x13, 0xA2, 0x00, 0x40, 0x0A, 0x01, 0x27, 0xFF, 0xFE, 0xE8, 0xE8, 0x00, 0x11, 0xC1, 0x05, 0x00, 0x00, 0xAA, 0xBB]) = some
      (.record .txExplicit [(.frameId, .u8 0x05), (.dest64, .u64 0x0013A200400A0127), (.dest16, .u16 0xFFFE), (.srcEndpoint, .u8 0xE8), (.dstEndpoint, .u8 0xE8), (.reserved, .u8 0x00), (.clusterId, .u8 0x11), (.profileId, .u16 0xC105), (.broadcastRadius, .u8 0x00), (.options, .u8 0x00), (.rfData, .bytes [0xAA, 0xBB])]) := by decide
/-- V53. -/
theorem test_txExplicit_two_violations :
    outOf (.txExplicit [0x05, 0x00, 0x13, 0xA2, 0x00, 0x40, 0x0A, 0x01, 0x27, 0xFF, 0xFE, 0xE8, 0xE8, 0x02, 0x11, 0xC1, 0x05, 0x00, 0x09, 0xAA, 0xBB]) = some
      (.decodeFailure (some 0x11) .constMismatch (some .reserved)) := by decide
/-- R178. -/
theorem test_txStatus :
    outOf (.txStatus [0x47, 0xFF, 0xFE, 0x03, 0x21, 0x02, 0x99]) = some
      (.record .txStatus [(.frameId, .u8 0x47), (.dest16, .u16 0xFFFE), (.retryCount, .u8 0x03), (.deliveryStatus, .u8 0x21), (.discoveryStatus, .u8 0x02), (.tail, .bytes [0x99])]) := by decide
/-- V39a. -/
theorem test_txStatus_short :
    outOf (.txStatus [0xFF]) = some
      (.decodeFailure (some 0x8B) .shortFrame (some .dest16)) := by decide
/-- R179. -/
theorem test_rxPacket :
    outOf (.rxPacket (pre ++ [0x7D, 0x84, 0x01, 0x52, 0x78, 0x44, 0x61, 0x74, 0x61])) = some
      (.record .rxPacket [(.src64, .u64 0x0013A20040522BAA), (.src16, .u16 0x7D84), (.options, .u8 0x01), (.rfData, .bytes [0x52, 0x78, 0x44, 0x61, 0x74, 0x61])]) := by decide
/-- R180. -/
theorem test_rxExplicit :
    outOf (.rxExplicit (pre ++ [0x7D, 0x84, 0xE0, 0xE0, 0x22, 0x11, 0xC1, 0x05, 0x02, 0x52, 0x78, 0x44, 0x61, 0x74, 0x61])) = some
      (.record .rxExplicit [(.src64, .u64 0x0013A20040522BAA), (.src16, .u16 0x7D84), (.srcEndpoint, .u8 0xE0), (.dstEndpoint, .u8 0xE0), (.clusterId, .u16 0x2211), (.profileId, .u16 0xC105), (.options, .u8 0x02), (.rfData, .bytes [0x52, 0x78, 0x44, 0x61, 0x74, 0x61])]) := by decide
/-- R181. -/
theorem test_rxSensor :
    outOf (.rxSensor (pre ++ [0xDD, 0x6C, 0x01, 0x03, 0x00, 0x02, 0x00, 0xCE, 0x00, 0xEA, 0x00, 0x52, 0x01, 0x6A])) = some
      (.record .rxSensor [(.src64, .u64 0x0013A20040522BAA), (.src16, .u16 0xDD6C), (.options, .u8 0x01), (.sensors, .u8 0x03), (.adc0, .u16 0x0002), (.adc1, .u16 0x00CE), (.adc2, .u16 0x00EA), (.adc3, .u16 0x0052), (.temperature, .u16 0x016A), (.tail, .bytes [])]) := by decide
/-- R182. -/
theorem test_rxNodeId :
    outOf (.rxNodeId (pre ++ [0x7D, 0x84, 0x02, 0x7D, 0x84, 0x00, 0x13, 0xA2, 0x00, 0x40, 0x52, 0x2B, 0xAA, 0x20, 0x00, 0xFF, 0xFE, 0x01, 0x01, 0xC1, 0x05, 0x10, 0x1E])) = some
      (.record .rxNodeId [(.src64, .u64 0x0013A20040522BAA), (.src16, .u16 0x7D84), (.options, .u8 0x02), (.remote16, .u16 0x7D84), (.remote64, .u64 0x0013A20040522BAA), (.tail, .bytes [0x20, 0x00, 0xFF, 0xFE, 0x01, 0x01, 0xC1, 0x05, 0x10, 0x1E])]) := by decide
/-- V60, V61, V64, V65, V66. -/
theorem test_rxIoSample_records :
    outOf (.rxIoSample (pre ++ [0x7D, 0x84, 0x01, 0x01, 0x00, 0x01, 0x15, 0x00, 0x01, 0x0A, 0xF0, 0x02, 0x00, 0x03, 0xFF])) = some
      (.record .rxIoSample [(.src64, .u64 0x0013A20040522BAA), (.src16, .u16 0x7D84), (.options, .u8 0x01), (.sampleCount, .u8 0x01), (.dmask, .u16 0x0001), (.amask, .u8 0x15), (.dsamples, .optU16 (some 0x0001)), (.asamples, .samples [(.supply, 0x0AF0), (.ad2, 0x0200), (.ad0, 0x03FF)]), (.tail, .bytes [])]) ∧
    outOf (.rxIoSample (pre ++ [0xFF, 0xFE, 0x01, 0x01, 0x00, 0x00, 0x00])) = some
      (.record .rxIoSample [(.src64, .u64 0x0013A20040522BAA), (.src16, .u16 0xFFFE), (.options, .u8 0x01), (.sampleCount, .u8 0x01), (.dmask, .u16 0x0000), (.amask, .u8 0x00), (.dsamples, .optU16 none), (.asamples, .samples []), (.tail, .bytes [])]) ∧
    outOf (.rxIoSample (pre ++ [0xFF, 0xFE, 0x01, 0x01, 0x00, 0x00, 0x1F, 0x00, 0x01, 0x00, 0x02, 0x00, 0x03, 0x00, 0x04, 0x00, 0x05])) = some
      (.record .rxIoSample [(.src64, .u64 0x0013A20040522BAA), (.src16, .u16 0xFFFE), (.options, .u8 0x01), (.sampleCount, .u8 0x01), (.dmask, .u16 0x0000), (.amask, .u8 0x1F), (.dsamples, .optU16 none), (.asamples, .samples [(.supply, 0x0001), (.ad3, 0x0002), (.ad2, 0x0003), (.ad1, 0x0004), (.ad0, 0x0005)]), (.tail, .bytes [])]) ∧
    outOf (.rxIoSample (pre ++ [0xFF, 0xFE, 0x01, 0x01, 0x80, 0x00, 0xE0, 0x12, 0x34])) = some
      (.record .rxIoSample [(.src64, .u64 0x0013A20040522BAA), (.src16, .u16 0xFFFE), (.options, .u8 0x01), (.sampleCount, .u8 0x01), (.dmask, .u16 0x8000), (.amask, .u8 0xE0), (.dsamples, .optU16 (some 0x1234)), (.asamples, .samples []), (.tail, .bytes [])]) ∧
    outOf (.rxIoSample (pre ++ [0xFF, 0xFE, 0x01, 0x02, 0x00, 0x01, 0x01, 0x00, 0x01, 0x01, 0x00, 0xDE, 0xAD])) = some
      (.record .rxIoSample [(.src64, .u64 0x0013A20040522BAA), (.src16, .u16 0xFFFE), (.options, .u8 0x01), (.sampleCount, .u8 0x02), (.dmask, .u16 0x0001), (.amask, .u8 0x01), (.dsamples, .optU16 (some 0x0001)), (.asamples, .samples [(.ad0, 0x0100)]), (.tail, .bytes [0xDE, 0xAD])]) := by decide
/-- V67, V68, V69. -/
theorem test_rxIoSample_short :
    outOf (.rxIoSample (pre ++ [0xFF, 0xFE, 0x01, 0x01, 0x00, 0x00, 0x03, 0x00, 0x01])) = some
      (.decodeFailure (some 0x92) .shortFrame (some (.asample .ad0))) ∧
    outOf (.rxIoSample (pre ++ [0xFF, 0xFE, 0x01, 0x01, 0x00, 0x01, 0x00])) = some
      (.decodeFailure (some 0x92) .shortFrame (some .dsamples)) ∧
    outOf (.rxIoSample (pre ++ [0xFF, 0xFE, 0x01, 0x01, 0x00, 0x00])) = some
      (.decodeFailure (some 0x92) .shortFrame (some .amask)) := by decide
/-- V40. -/
theorem test_unknown :
    outOf (.unknown 0xA1 [1, 2, 3]) = some
      (.unknown 0xA1 [1, 2, 3]) := by decide
/-- V32. -/
theorem test_empty :
    outOf (.empty) = some
      (.decodeFailure none .emptyFrame none) := by decide

/-! ## Cycles and table words -/

/-- V1: a byte while seeking is silent. -/
theorem test_step_skip : step (withToken State.reset (.byte 0x01)) = .next State.reset := rfl
/-- Scenario 1.1, beat 0. -/
theorem test_step_sof : regsOf (step (withToken State.reset (.byte 0x7E))) =
    some ⟨.inFrame, false, .lenHi, 0, 0, 0, 0⟩ := by decide
/-- Scenario 1.1, beat 5. -/
theorem test_step_completes_frame :
    regsOf (step (withToken (mid .csum 2 0 0x8A 2 [0x8A, 0x00]) (.byte 0x75))) = some idle ∧
    eventsOf (step (withToken (mid .csum 2 0 0x8A 2 [0x8A, 0x00]) (.byte 0x75))) =
      [.out (.record .modemStatus [(.status, .u8 0), (.tail, .bytes [])])] := by decide
/-- V24, beat 9: the checksum byte may be escaped. -/
theorem test_step_escaped_checksum :
    eventsOf (step (withToken (marked (mid .csum 2 0 0xFB 2 [0x7E, 0x7D])) (.byte 0x24))) =
      [.out (.unknown 0x7E [0x7D])] := by decide
/-- V25. -/
theorem test_step_truncated : eventsOf (step (withToken (marked (mid .payload 2 2 0 0 [])) .eos)) = [.diag .truncated] := by
  decide
/-- V70: a reset in a frame, with no event; a token in the same cycle is lost (40_pipeline.md R101). -/
theorem test_step_reset :
    regsOf (step { mid .payload 2 1 0x8A 1 [0x8A] with input := [⟨true, true, false, 0x00⟩] }) = some idle ∧
    eventsOf (step { mid .payload 2 1 0x8A 1 [0x8A] with input := [⟨true, true, false, 0x00⟩] }) = [] := by decide
/-- V71: an idle cycle. -/
theorem test_step_idle : step State.reset = .next State.reset := rfl

theorem test_table_sof : decodeTableWord 8 0x7E = some .sof := by decide
theorem test_table_escMark : decodeTableWord 8 0x7D = some .escMark := by decide
theorem test_table_modemStatus : decodeTableWord 8 0x8A = some (.modemStatus (List.replicate 22 0)) := by decide
theorem test_table_rxNodeId : decodeTableWord 8 0x95 = some (.rxNodeId (List.replicate 22 0)) := by decide
theorem test_table_empty : decodeTableWord 0 0 = some .empty := by decide
theorem test_fetch_sof : regsOf (step (State.reset.withFetchWord 8 0x7E)) =
    some ⟨.inFrame, false, .lenHi, 0, 0, 0, 0⟩ := by decide
theorem test_fetch_escMark : (regsOf (step (State.reset.withFetchWord 8 0x7D))).map (fun r => r.esc) = some true := by decide
theorem test_fetch_modemStatus : eventsOf (step (State.reset.withFetchWord 8 0x8A)) =
    [.out (.record .modemStatus [(.status, .u8 0), (.tail, .bytes (List.replicate 21 0))])] := by decide
theorem test_fetch_unknown : eventsOf (step (State.reset.withFetchWord 8 0xA1)) =
    [.out (.unknown 0xA1 (List.replicate 22 0))] := by decide

/-! ## The buffer -/

theorem test_reset_buffer_canonical : State.reset.buf.wf = true := by decide
theorem test_write_read : Memory.read (Memory.write [(0, 1), (2, 3)] 1 9) 1 = some 9 ∧
    Memory.read (Memory.write [(0, 1), (2, 3)] 1 9) 2 = some 3 ∧
    Memory.write [(0, 1), (2, 3)] 2 9 = [(0, 1), (2, 9)] := by decide
theorem test_unwritten_has_no_value : Memory.read [(0, 1)] 1 = none := by decide
theorem test_wf_refuses_disorder : Memory.wf [(2, 1), (1, 1)] = false ∧ Memory.wf [(1, 1), (1, 2)] = false := by decide

/-! ## Witnesses: a state and operands that meet each obligation's hypotheses, clause by clause -/

theorem witness_DecodeInvertsEncode :
    ((Instr.modemStatus [0]).wellFormed = true ∧ (Instr.modemStatus [0]).selectedAt .frame = true) ∧
    ((Instr.unknown 0xFF []).wellFormed = true ∧ (Instr.unknown 0xFF []).selectedAt .frame = true) ∧
    ((Instr.skip 0).wellFormed = true ∧ (Instr.skip 0).selectedAt (.stream .seek true) = true) ∧
    ((Instr.plainByte 0x7E).wellFormed = true ∧ (Instr.plainByte 0x7E).selectedAt (.stream .inFrame false) = true) ∧
    ((Instr.checkBad 0).wellFormed = true ∧ (Instr.checkBad 0).selectedAt (.assembler .csum 0) = true) := by decide

theorem witness_EncodeInvertsDecode :
    decode .frame (.bytes []) = .ok .empty ∧ decode (.stream .seek true) .eos = .ok .eosIdle ∧
    decode (.assembler .lenLo 0) (.bytes [0xFF]) = .ok (.lenLo 0xFF) := ⟨rfl, rfl, rfl⟩

theorem witness_StreamMapRows :
    ((0x7D : Byte) ≠ 0x7E ∧ (0x7F : Byte) ≠ 0x7E) ∧ ((0x7E : Byte) ≠ 0x7D ∧ (0x7C : Byte) ≠ 0x7D) ∧
    (((0xFF : Byte).toNat + (0x00 : Byte).toNat) % 256 = 0xFF ∧ ((0xFF : Byte).toNat + (0xFF : Byte).toNat) % 256 ≠ 0xFF) := by
  decide

theorem witness_TagSelectsFormat :
    (0x00 : Byte) ∉ [(0x8A : Byte), 0x08, 0x09, 0x88, 0x17, 0x97, 0x10, 0x11, 0x8B, 0x90, 0x91, 0x92, 0x94, 0x95] ∧
    (0x93 : Byte) ∉ [(0x8A : Byte), 0x08, 0x09, 0x88, 0x17, 0x97, 0x10, 0x11, 0x8B, 0x90, 0x91, 0x92, 0x94, 0x95] ∧
    (0xFF : Byte) ∉ [(0x8A : Byte), 0x08, 0x09, 0x88, 0x17, 0x97, 0x10, 0x11, 0x8B, 0x90, 0x91, 0x92, 0x94, 0x95] := by decide

theorem witness_StepRunsDecodedOperation :
    (withToken State.reset (.byte 0x7E)).input = [tokenCycle (.byte 0x7E)] ∧ (tokenCycle (.byte 0x7E)).rst = false ∧
    cycleToken (tokenCycle (.byte 0x7E)) = some (.byte 0x7E) ∧ cycleToken (tokenCycle .eos) = some .eos := by decide

theorem witness_GoodChecksumRunsFrameOperation :
    verifiedFrame (mid .csum 2 0 0x8A 2 [0x8A, 0x00]) = some [0x8A, 0x00] ∧ verifiedFrame State.reset = some [] := by decide

theorem witness_IdleCycleChangesNothing :
    ({ State.reset with input := [⟨false, false, true, 0x7E⟩] } : State).input = ⟨false, false, true, 0x7E⟩ :: [] := rfl

theorem witness_ResetCycleTakesResetValues :
    ({ mid .payload 2 2 0 0 [] with input := [⟨true, true, false, 0x8A⟩] } : State).input = ⟨true, true, false, 0x8A⟩ :: [] :=
  rfl

theorem witness_RawByteResult :
    ((Instr.escByte 0x5E, (0x5E : Byte) ^^^ 0x20) ∈
      [(Instr.escByte 0x5E, (0x5E : Byte) ^^^ 0x20), (Instr.plainByte 0x5E, 0x5E)]) ∧
    (mid .lenHi 0 0 0 0 []).asm = .lenHi ∧ (mid .lenLo 0x0100 0 0 0 []).asm = .lenLo ∧
    ((mid .payload 65535 1 0 65534 []).asm = .payload ∧
      (mid .payload 65535 1 0 65534 []).wr.toNat < (mid .payload 65535 1 0 65534 []).params.bufBytes) ∧
    ((mid .csum 2 0 0x8A 2 [0x8A, 0x00]).asm = .csum ∧ (mid .csum 2 0 0x8A 2 [0x8A, 0x00]).sum + 0x75 = 0xFF ∧
      verifiedFrame (mid .csum 2 0 0x8A 2 [0x8A, 0x00]) = some [0x8A, 0x00]) ∧
    (mid .csum 2 0 0x8A 2 [0x8A, 0x00]).sum + 0x74 ≠ 0xFF := by decide

theorem witness_LenLoResult :
    (mid .lenLo 0xFF00 0 0 0 []).len.toNat = (0xFF : Byte).toNat * 256 ∧
    (mid .lenLo 0 0 0 0 []).len.toNat = (0x00 : Byte).toNat * 256 := by decide

theorem witness_CollectResult :
    (mid .payload 2 2 0 0 []).wr.toNat < (mid .payload 2 2 0 0 []).params.bufBytes ∧
    (mid .payload 65535 1 0 65534 []).wr.toNat < (mid .payload 65535 1 0 65534 []).params.bufBytes := by decide

theorem witness_StopsAreNamed :
    (¬ (mid .payload 65535 1 0 65535 []).wr.toNat < (mid .payload 65535 1 0 65535 []).params.bufBytes) ∧
    (1 < (mid .csum 2 0 0 2 [0x8A]).len.toNat ∧ Memory.read (mid .csum 2 0 0 2 [0x8A]).buf 1 = none) := by decide

theorem witness_CheckGoodResult :
    Memory.readBytes (mid .csum 1 0 0xA1 1 [0xA1]).buf 0 (mid .csum 1 0 0xA1 1 [0xA1]).len.toNat = some [0xA1] ∧
    Memory.readBytes State.reset.buf 0 State.reset.len.toNat = some [] := by decide

theorem witness_ZeroLengthFrame :
    ((mid .lenLo 0 0 0 0 []).asm = .lenLo ∧ (mid .lenLo 0 0 0 0 []).len = 0 ∧ (mid .lenLo 0 0 0 0 []).sum = 0) ∧
    ((mid .csum 0 0 0 0 []).asm = .csum ∧ (mid .csum 0 0 0 0 []).len = 0 ∧ (mid .csum 0 0 0 0 []).sum = 0) := by decide

/-- The premises of the thirteen fixed records, and of the IO sample with both masks zero and not. -/
theorem witness_records :
    State.reset.params.schema = Schema.default ∧
    read16 (0x92 :: pre ++ [0xFF, 0xFE, 1, 1, 0, 0, 0]) 13 = 0 ∧
    read16 (0x92 :: pre ++ [0x7D, 0x84, 1, 1, 0, 1, 0x15]) 13 = 1 ∧
    read8 (0x92 :: pre ++ [0x7D, 0x84, 1, 1, 0, 1, 0x15]) 15 = 0x15 := by decide

theorem witness_FrameLevelWritesRecordPortOnly :
    isFrameLevel (.rxIoSample []) = true ∧ isFrameLevel (.unknown 0 []) = true ∧ isFrameLevel .empty = true := by decide

theorem witness_OnlyCollectStores :
    (exec .sof State.reset = .next (startFrame State.reset) ∧ storeAddr .sof State.reset = none) ∧
    (exec (.collect 0x8A) (mid .payload 2 2 0 0 []) = .next (collectedState 0x8A (mid .payload 2 2 0 0 [])) ∧
      storeAddr (.collect 0x8A) (mid .payload 2 2 0 0 []) = some 0) := ⟨⟨rfl, rfl⟩, ⟨rfl, rfl⟩⟩

theorem witness_ReadsAreBigEndian :
    7 + 1 ≤ [(1 : Byte), 2, 3, 4, 5, 6, 7, 8].length ∧ 6 + 2 ≤ [(1 : Byte), 2, 3, 4, 5, 6, 7, 8].length ∧
    0 + 8 ≤ [(1 : Byte), 2, 3, 4, 5, 6, 7, 8].length ∧ 8 + 0 ≤ [(1 : Byte), 2, 3, 4, 5, 6, 7, 8].length ∧
    3 < 8 := by decide

/-- V53, cut down to its first violation; and a checked byte that is not there. -/
theorem witness_FirstFailureWins :
    (readFields [0x11, 5, 2] [.u8 .frameId] 1 = .ok ([(.frameId, .u8 5)], 2) ∧
      readField [0x11, 5, 2] (.const8 .reserved 0) 2 = .error ⟨.constMismatch, .reserved⟩) ∧
    ([(0x11 : Byte), 5].length < 2 + 1 ∧ read8 [0x11, 5] 2 ≠ 1) ∧
    ([(0x11 : Byte), 5, 0xC1].length < 2 + 2 ∧ read16 [0x11, 5, 0xC1] 2 ≠ 0xC105) ∧
    ([(0x11 : Byte), 5].length < 2 + 1 ∧ read8 [0x11, 5] 2 ∉ [(0x08 : Byte)]) := by
  refine ⟨⟨rfl, rfl⟩, ?_⟩
  decide

/-- Both sides of the bounds test, at the last byte that fits and the first that does not. -/
theorem witness_ShortFrameTest :
    (readField [0x8A] (.u8 .status) 1 = .error ⟨.shortFrame, .status⟩ ∧ 1 + 1 > [(0x8A : Byte)].length) ∧
    (readField [0x8A, 6] (.u8 .status) 1 = .ok ([(.status, .u8 6)], 2) ∧ ¬ 1 + 1 > [(0x8A : Byte), 6].length) ∧
    ((.ad0, 1) ∈ setChannels 0x03 ∧ 0 + 2 * 1 ≤ [(0 : Byte), 1].length ∧ 0 + 2 * 1 + 2 > [(0 : Byte), 1].length) ∧
    ((.ad1, 0) ∈ setChannels 0x03 ∧ 0 + 2 * 0 + 2 > [(0 : Byte)].length) :=
  ⟨⟨rfl, by decide⟩, ⟨rfl, by decide⟩, by decide, by decide⟩

theorem witness_FieldKindsResult :
    1 + 1 ≤ [(0x8A : Byte), 6].length ∧ 1 + 2 ≤ [(0x11 : Byte), 0xC1, 5].length ∧ 0 + 8 ≤ pre.length ∧
    (readFields [0x8A, 6] [.u8 .status] 1 = .ok ([(.status, .u8 6)], 2) ∧ 2 ≤ [(0x8A : Byte), 6].length ∧
      2 = [(0x8A : Byte), 6].length) := ⟨by decide, by decide, by decide, rfl, by decide, rfl⟩

theorem witness_RecordKeepsEveryByte :
    runFields .modemStatus fmtModemStatus (0x8A :: [6, 7]) =
      .record .modemStatus [(.status, .u8 6), (.tail, .bytes [7])] := by decide

theorem witness_IoSampleSizeLaw :
    16 ≤ (0x92 :: (pre ++ [0xFF, 0xFE, 1, 1, 0, 0, 0])).length ∧
    analogBase (read16 (0x92 :: (pre ++ [0xFF, 0xFE, 1, 1, 0, 0, 0])) 13) +
      2 * analogCount (read8 (0x92 :: (pre ++ [0xFF, 0xFE, 1, 1, 0, 0, 0])) 15) = 16 ∧
    analogBase (read16 (0x92 :: (pre ++ [0xFF, 0xFE, 1, 1, 0x80, 0, 0xFF])) 13) +
      2 * analogCount (read8 (0x92 :: (pre ++ [0xFF, 0xFE, 1, 1, 0x80, 0, 0xFF])) 15) = 28 := by decide

/-- R176's failing example, and V52 with its profile identifier. -/
theorem witness_OnlyTransmitRecordsAreChecked :
    frameEvent Schema.default (0x10 :: [1, 0, 0x13, 0xA2, 0, 0x40, 0x0A, 1, 0x27, 0xFF, 0xFE, 0, 1]) =
      .decodeFailure (some 0x10) .enumOutOfSet (some .options) ∧
    frameEvent Schema.default
        (0x11 :: [5, 0, 0x13, 0xA2, 0, 0x40, 0x0A, 1, 0x27, 0xFF, 0xFE, 0xE8, 0xE8, 0, 0x11, 0xC1, 4, 0, 0, 0xAA, 0xBB]) =
      .decodeFailure (some 0x11) .constMismatch (some .profileId) := by decide

theorem witness_ChecksumRule :
    exec .sof State.reset = .next (startFrame State.reset) ∧
    exec .escMark State.reset = .next (marked State.reset) ∧
    exec (.lenHi 0) State.reset = .next (lenHiState 0 State.reset) ∧
    exec (.lenLo 2) State.reset = .next (lenLoState 2 State.reset) := ⟨rfl, rfl, rfl, rfl⟩

/-- V31. -/
theorem witness_OneByteMutationRejected :
    (0x00 : Byte) ≠ 0x06 ∧ checksumGood (sumBytes ([0x8A] ++ 0x00 :: [])) 0x75 = true := by decide

theorem witness_UnescapedValue : State.reset.esc = false := rfl

/-- The state of scenario 1.1 after beat 3 meets the invariant. -/
theorem inv_mid : Inv (mid .payload 2 1 0x8A 1 [0x8A]) := by
  refine ⟨by decide, fun _ => ⟨by decide, by decide, ?_, by decide⟩, by decide, by decide⟩
  intro _
  decide

theorem inv_mid_input (cs : List Machine.Cycle) : Inv { mid .payload 2 1 0x8A 1 [0x8A] with input := cs } := inv_mid

theorem witness_StepKeepsInvariant :
    Inv (withToken (mid .payload 2 1 0x8A 1 [0x8A]) (.byte 0x00)) ∧
    step (withToken (mid .payload 2 1 0x8A 1 [0x8A]) (.byte 0x00)) =
      .next (collectedState 0x00 (mid .payload 2 1 0x8A 1 [0x8A])) := ⟨inv_mid_input _, rfl⟩

theorem witness_NothingIsFatal :
    Inv (mid .payload 2 1 0x8A 1 [0x8A]) ∧ 65535 ≤ (mid .payload 2 1 0x8A 1 [0x8A]).params.bufBytes :=
  ⟨inv_mid, by decide⟩

theorem witness_EventExactlyWhenFrameEnds :
    step (withToken (mid .payload 2 1 0x8A 1 [0x8A]) .eos) =
      .next (resync (emitDiag (mid .payload 2 1 0x8A 1 [0x8A]) .truncated)) ∧
    (withToken (mid .payload 2 1 0x8A 1 [0x8A]) .eos).input.head? = some (tokenCycle .eos) ∧
    (tokenCycle .eos).rst = false := ⟨rfl, rfl, rfl⟩

theorem witness_RecordOnlyFromGoodChecksum :
    step (withToken (mid .csum 0 0 0 0 []) (.byte 0xFF)) =
      .next (resync (emitOut (mid .csum 0 0 0 0 []) (.decodeFailure none .emptyFrame none))) ∧
    (resync (emitOut (mid .csum 0 0 0 0 []) (.decodeFailure none .emptyFrame none))).out =
      some (.decodeFailure none .emptyFrame none) := ⟨rfl, rfl⟩

theorem witness_ParametersNeverChange : step State.reset = .next State.reset := rfl

/-- Two blocks one content byte into a frame, one of them over a longer earlier frame's bytes. -/
theorem witness_StaleBytesNeverShow :
    Inv (mid .payload 2 1 0x8A 1 [0x8A]) ∧
    AgreeBelowWr (mid .payload 2 1 0x8A 1 [0x8A]) (mid .payload 2 1 0x8A 1 [0x8A, 1, 2]) ∧
    step (mid .payload 2 1 0x8A 1 [0x8A]) = .next (mid .payload 2 1 0x8A 1 [0x8A]) := by
  refine ⟨inv_mid, ⟨rfl, ?_⟩, rfl⟩
  intro a ha
  have h : a = 0 := by
    have hw : (mid .payload 2 1 0x8A 1 [0x8A]).wr.toNat = 1 := by decide
    omega
  subst h
  decide

/-- A marker, and a content byte. -/
theorem witness_FrameEndsInTime :
    (Inv (withToken (mid .payload 2 1 0x8A 1 [0x8A]) (.byte 0x7D)) ∧
      step (withToken (mid .payload 2 1 0x8A 1 [0x8A]) (.byte 0x7D)) = .next (marked (mid .payload 2 1 0x8A 1 [0x8A]))) ∧
    (mid .payload 2 1 0x8A 1 [0x8A]).scan = .inFrame ∧
    (Inv (withToken (mid .payload 2 1 0x8A 1 [0x8A]) (.byte 0x00)) ∧
      step (withToken (mid .payload 2 1 0x8A 1 [0x8A]) (.byte 0x00)) =
        .next (collectedState 0x00 (mid .payload 2 1 0x8A 1 [0x8A]))) :=
  ⟨⟨inv_mid_input _, rfl⟩, rfl, inv_mid_input _, rfl⟩

/-- The premises at the scenario's own frame, `7E 00 02 8A 00 75`, and at the empty content. -/
theorem witness_FrameYieldsItsOneEvent :
    frameWith escSet [0x8A, 0x00] 0x75 = [0x7E, 0x00, 0x02, 0x8A, 0x00, 0x75] ∧
    frameWith escSet [] 0xFF = [0x7E, 0x00, 0x00, 0xFF] ∧
    Idle { State.reset with input := byteCycles (frameWith escSet [0x8A, 0x00] 0x75) ++ [] } ∧
    escSet 0x7D = true ∧ [(0x8A : Byte), 0x00].length ≤ State.reset.params.bufBytes ∧
    goodChecksum [0x8A, 0x00] = 0x75 := by decide

end Sys2Proof.Tests
end

section
/-! PROOFS. The reset state (10_state.md R33): the idle state of a frame decoder (R32), with both output ports empty. -/

namespace Sys2Proof.Machine

/-- The block starts seeking, with every frame register idle (10_state.md R32, R33). -/
theorem State.reset_idle : Idle State.reset := ⟨rfl, rfl, rfl, rfl, rfl, rfl, rfl⟩

@[simp] theorem State.reset_out : State.reset.out = none := rfl
@[simp] theorem State.reset_diag : State.reset.diag = none := rfl

/-- Settles O11: the table of R33 is the idle state (R32) and two empty ports (40_pipeline.md R102, R103). -/
theorem resetStateValues : Obligations.ResetStateValues := by
  unfold Obligations.ResetStateValues
  obtain ⟨hscan, hesc, hasm, hlen, hrem, hsum, hwr⟩ := State.reset_idle
  exact ⟨hscan, hesc, hasm, hlen, hrem, hsum, hwr, State.reset_out, State.reset_diag⟩

end Sys2Proof.Machine
end

section
/-! PROOFS. The reads of a Verified Frame (20_memory.md R56): the big-endian value of the bytes read, in each width, and
the bytes of a run. -/

namespace Sys2Proof.Machine

@[simp] theorem be_nil : be [] = 0 := rfl

@[simp] theorem be_singleton (b : Byte) : be [b] = b.toNat := by
  simpa using be_append_byte [] b

theorem be_pair (b c : Byte) : be [b, c] = b.toNat * 256 + c.toNat := by
  simpa using be_append_byte [b] c

/-! ## Runs of bytes -/

@[simp] theorem memBytes_zero (frame : List Byte) (a : Nat) : memBytes frame a 0 = [] := List.take_zero

theorem memBytes_one {frame : List Byte} {a : Nat} (h : a + 1 ≤ frame.length) :
    memBytes frame a 1 = [frame.getD a 0] := by
  rw [memBytes_succ h, memBytes_zero, List.getD_eq_getElem frame 0 h]

theorem memBytes_two {frame : List Byte} {a : Nat} (h : a + 2 ≤ frame.length) :
    memBytes frame a 2 = [frame.getD a 0, frame.getD (a + 1) 0] := by
  rw [memBytes_add frame a 1 1, memBytes_one (by omega), memBytes_one h, List.singleton_append]

/-- A byte of a run is the frame's byte at its address. -/
theorem memBytes_getD (frame : List Byte) (a : Nat) {n i : Nat} (h : i < n) :
    (memBytes frame a n).getD i 0 = frame.getD (a + i) 0 := by
  simp only [memBytes, List.getD_eq_getElem?_getD, List.getElem?_take_of_lt h, List.getElem?_drop]

/-! ## Reads in the three widths -/

/-- A read that stays in the frame fits its width: a register of `8 * n` bits loses nothing. -/
theorem memRead_lt {frame : List Byte} {a n : Nat} (h : a + n ≤ frame.length) : memRead frame a n < 256 ^ n := by
  have hlt : memRead frame a n < 256 ^ (memBytes frame a n).length := be_lt (memBytes frame a n)
  rwa [memBytes_length h] at hlt

theorem read8_eq_getD {frame : List Byte} {a : Nat} (h : a + 1 ≤ frame.length) : read8 frame a = frame.getD a 0 := by
  rw [read8, memRead, memBytes_one h, be_singleton, BitVec.ofNat_toNat, BitVec.setWidth_eq]

theorem read16_toNat {frame : List Byte} {a : Nat} (h : a + 2 ≤ frame.length) :
    (read16 frame a).toNat = be (memBytes frame a 2) :=
  Nat.mod_eq_of_lt (memRead_lt h)

theorem read64_toNat {frame : List Byte} {a : Nat} (h : a + 8 ≤ frame.length) :
    (read64 frame a).toNat = be (memBytes frame a 8) :=
  Nat.mod_eq_of_lt (memRead_lt h)

/-- Settles O42: no read that stays in the frame is cut off by its register (`memRead_lt`), and the short runs are their
bytes in address order. -/
theorem readsAreBigEndian : Obligations.ReadsAreBigEndian := by
  unfold Obligations.ReadsAreBigEndian
  refine ⟨be_nil, be_append_byte, fun frame a => ⟨read8_eq_getD, fun h => ?_, read64_toNat, fun n h => ?_⟩⟩
  · rw [read16_toNat h, memBytes_two h, be_pair]
  · exact ⟨memBytes_length h, fun i hi => memBytes_getD frame a hi⟩

end Sys2Proof.Machine
end

section
/-! PROOFS. The checksum (30_encoding.md R74): the running sum in naturals, the one checksum byte that is good, and the
operations that leave the sum alone. -/

namespace Sys2Proof

/-! ## The running sum -/

@[simp] theorem sumBytes_nil : sumBytes [] = 0 := rfl

theorem sumBytes_append_byte (bs : List Byte) (b : Byte) : sumBytes (bs ++ [b]) = sumAdd (sumBytes bs) b := by
  simp [sumBytes]

theorem sumAdd_toNat (sum u : Byte) : (sumAdd sum u).toNat = (sum.toNat + u.toNat) % 256 := BitVec.toNat_add sum u

/-- The 8-bit sum is the sum of the naturals modulo 256. -/
theorem sumBytes_toNat (bs : List Byte) : (sumBytes bs).toNat = (bs.map BitVec.toNat).sum % 256 := by
  induction bs using List.reverseRecOn with
  | nil => rfl
  | append_singleton bs b ih =>
    rw [sumBytes_append_byte, sumAdd_toNat, ih, Nat.mod_add_mod]
    simp

/-! ## The good checksum byte -/

theorem checksumGood_iff_toNat {sum k : Byte} : checksumGood sum k = true ↔ (sum.toNat + k.toNat) % 256 = 0xFF := by
  rw [checksumGood, beq_iff_eq, ← BitVec.toNat_inj, sumAdd_toNat]
  rfl

/-- The good checksum byte of a content in naturals (30_encoding.md R74). -/
theorem goodChecksum_toNat (content : List Byte) :
    (Machine.goodChecksum content).toNat = (0xFF - (content.map BitVec.toNat).sum % 256) % 256 := by
  have hck : Config.ckGood.toNat = 0xFF := rfl
  rw [Machine.goodChecksum, BitVec.toNat_sub, sumBytes_toNat, hck]
  omega

/-- A content has exactly one good checksum byte. -/
theorem checksumGood_sumBytes_iff {content : List Byte} {k : Byte} :
    checksumGood (sumBytes content) k = true ↔ k = Machine.goodChecksum content := by
  rw [checksumGood_iff_toNat, ← BitVec.toNat_inj, goodChecksum_toNat, sumBytes_toNat]
  have hk := k.isLt
  omega

end Sys2Proof

namespace Sys2Proof.Machine

@[simp] theorem goodChecksum_nil : goodChecksum [] = 0xFF := rfl

/-! ## What the sum excludes -/

theorem exec_sof (s : State) : exec .sof s = .next (startFrame s) := rfl

theorem exec_escMark (s : State) : exec .escMark s = .next { s with esc := true } := rfl

theorem exec_lenHi (u : Byte) (s : State) : exec (.lenHi u) s = .next (lenHiState u s) := rfl

theorem exec_lenLo (u : Byte) (s : State) : exec (.lenLo u) s = .next (lenLoState u s) := rfl

@[simp] theorem lenHiState_sum (u : Byte) (s : State) : (lenHiState u s).sum = s.sum := rfl

@[simp] theorem lenLoState_sum (u : Byte) (s : State) : (lenLoState u s).sum = s.sum := rfl

/-- An operation answers one state only. -/
theorem eq_of_exec_next {i : Instr} {s t t' : State} (h : exec i s = .next t) (h' : exec i s = .next t') : t' = t :=
  Host.Outcome.next.inj (h'.symm.trans h)

theorem exec_sof_sum {s t : State} (h : exec .sof s = .next t) : t.sum = 0 := by
  rw [eq_of_exec_next (exec_sof s) h, startFrame_sum]

theorem exec_escMark_sum {s t : State} (h : exec .escMark s = .next t) : t.sum = s.sum := by
  rw [eq_of_exec_next (exec_escMark s) h]

theorem exec_lenHi_sum {u : Byte} {s t : State} (h : exec (.lenHi u) s = .next t) : t.sum = s.sum := by
  rw [eq_of_exec_next (exec_lenHi u s) h, lenHiState_sum]

theorem exec_lenLo_sum {u : Byte} {s t : State} (h : exec (.lenLo u) s = .next t) : t.sum = s.sum := by
  rw [eq_of_exec_next (exec_lenLo u s) h, lenLoState_sum]

/-- Settles O49: the running sum is the sum in naturals modulo 256 (`sumBytes_toNat`), so one byte completes it to 0xFF
(`checksumGood_sumBytes_iff`). -/
theorem checksumRule : Obligations.ChecksumRule := by
  unfold Obligations.ChecksumRule
  refine ⟨fun content k => ⟨?_, ?_⟩, fun k => ?_, fun s t u =>
    ⟨exec_sof_sum, exec_escMark_sum, exec_lenHi_sum, exec_lenLo_sum⟩⟩
  · rw [checksumGood_iff_toNat, sumBytes_toNat, Nat.mod_add_mod]
  · rw [checksumGood_sumBytes_iff, ← BitVec.toNat_inj, goodChecksum_toNat]
  · rw [checksumGood_sumBytes_iff, goodChecksum_nil]

end Sys2Proof.Machine
end

section
/-! PROOFS. The decode maps row by row (30_encoding.md R72): one equation per row of the stream map and of the
assembler's map. -/

namespace Sys2Proof

/-! ## The stream map -/

theorem decodeToken_seek_delim (esc : Bool) : decodeToken .seek esc (.byte Config.delim) = .sof := rfl

theorem decodeToken_seek_byte (esc : Bool) {b : Byte} (h : b ≠ Config.delim) :
    decodeToken .seek esc (.byte b) = .skip b :=
  if_neg (by simpa using h)

theorem decodeToken_seek_eos (esc : Bool) : decodeToken .seek esc .eos = .eosIdle := rfl

theorem decodeToken_inFrame_esc : decodeToken .inFrame false (.byte Config.esc) = .escMark := rfl

theorem decodeToken_inFrame_afterEsc (b : Byte) : decodeToken .inFrame true (.byte b) = .escByte b := rfl

theorem decodeToken_inFrame_byte {b : Byte} (h : b ≠ Config.esc) :
    decodeToken .inFrame false (.byte b) = .plainByte b :=
  if_neg (by simpa using h)

theorem decodeToken_inFrame_eos (esc : Bool) : decodeToken .inFrame esc .eos = .eosTrunc := rfl

/-! ## The assembler's map -/

theorem decodeDelivered_lenHi (sum u : Byte) : decodeDelivered .lenHi sum u = .lenHi u := rfl

theorem decodeDelivered_lenLo (sum u : Byte) : decodeDelivered .lenLo sum u = .lenLo u := rfl

theorem decodeDelivered_payload (sum u : Byte) : decodeDelivered .payload sum u = .collect u := rfl

theorem decodeDelivered_csum_good {sum u : Byte} (h : checksumGood sum u = true) :
    decodeDelivered .csum sum u = .checkGood u :=
  if_pos h

theorem decodeDelivered_csum_bad {sum u : Byte} (h : ¬ checksumGood sum u = true) :
    decodeDelivered .csum sum u = .checkBad u :=
  if_neg h

/-- Settles O4, one lemma per row; the two rows of `CSUM` part at the checksum test in naturals
(`checksumGood_iff_toNat`). -/
theorem streamMapRows : Obligations.StreamMapRows := by
  unfold Obligations.StreamMapRows
  exact ⟨fun esc _ hb => decodeToken_seek_byte esc hb, decodeToken_seek_delim, decodeToken_seek_eos,
    decodeToken_inFrame_esc, decodeToken_inFrame_afterEsc, fun _ hb => decodeToken_inFrame_byte hb,
    decodeToken_inFrame_eos, decodeDelivered_lenHi, decodeDelivered_lenLo, decodeDelivered_payload,
    fun _ _ h => decodeDelivered_csum_good (checksumGood_iff_toNat.2 h),
    fun _ _ h => decodeDelivered_csum_bad fun hg => h (checksumGood_iff_toNat.1 hg)⟩

end Sys2Proof
end

section
/-! PROOFS. The tag map (30_encoding.md R76, 44_dispatcher.md R152): the tags outside the table select the default arm. -/

namespace Sys2Proof

/-- The default arm is for the values that stand nowhere in the table (44_dispatcher.md R152, R153). -/
theorem Variant.ofTag_eq_none_iff_not_mem {t : Byte} : Variant.ofTag t = none ↔ t ∉ Variant.all.map Variant.tag := by
  simp [Variant.ofTag_eq_none]

@[simp] theorem decodeFrame_nil : decodeFrame [] = .empty := rfl

theorem decodeFrame_unknown {t : Byte} (body : List Byte) (h : Variant.ofTag t = none) :
    decodeFrame (t :: body) = .unknown t body := by
  simp [decodeFrame, h]

/-- Settles O5: the lookup finds each shape by its own tag (`decodeFrame_tag`), and the list of the statement is the list
of all tags. -/
theorem tagSelectsFormat : Obligations.TagSelectsFormat := by
  unfold Obligations.TagSelectsFormat
  refine ⟨fun body => ?_, fun tag body h => decodeFrame_unknown body (Variant.ofTag_eq_none_iff_not_mem.2 h),
    decodeFrame_nil⟩
  have hknown (v : Variant) : decodeFrame (v.tag :: body) = v.instr body := decodeFrame_tag v body
  exact ⟨hknown .modemStatus, hknown .atCmd, hknown .atCmdQueued, hknown .atResp, hknown .remoteAtReq,
    hknown .remoteAtResp, hknown .txReq, hknown .txExplicit, hknown .txStatus, hknown .rxPacket, hknown .rxExplicit,
    hknown .rxIoSample, hknown .rxSensor, hknown .rxNodeId⟩

end Sys2Proof
end

section
/-! PROOFS. The unescaped value (30_encoding.md R75): its bits, its round trip, and what a raw byte delivers. -/

namespace Sys2Proof

theorem unescape_unescape (b : Byte) : unescape (unescape b) = b := by
  rw [unescape, unescape, BitVec.xor_assoc, BitVec.xor_self, BitVec.xor_zero]

theorem escXor_getLsbD : ∀ n : Fin 8, Config.escXor.getLsbD n = decide (n.val = 5) := by decide

theorem unescape_getLsbD (b : Byte) (n : Fin 8) :
    (unescape b).getLsbD n = if n.val = 5 then !b.getLsbD n else b.getLsbD n := by
  rw [unescape, BitVec.getLsbD_xor, escXor_getLsbD]
  split_ifs with h
  · simp [h]
  · simp [h]

end Sys2Proof

namespace Sys2Proof.Machine

theorem exec_escByte (b : Byte) (s : State) : exec (.escByte b) s = deliver (unescape b) { s with esc := false } := rfl

theorem exec_plainByte (b : Byte) (s : State) : exec (.plainByte b) s = deliver b { s with esc := false } := rfl

/-- Clearing a marker that is not pending changes nothing. -/
theorem clear_esc_of_not_esc {s : State} (h : s.esc = false) : { s with esc := false } = s := by
  rw [← h]

/-- Settles O51: 0x20 is bit 5 and no other (`escXor_getLsbD`), and both raw bytes deliver with `esc` cleared. -/
theorem unescapedValue : Obligations.UnescapedValue := by
  unfold Obligations.UnescapedValue
  refine ⟨fun x => ⟨rfl, unescape_unescape x, unescape_getLsbD x⟩, fun s x hesc => ⟨?_, ?_⟩⟩
  · rw [exec_escByte, clear_esc_of_not_esc hesc]
  · rw [exec_plainByte, clear_esc_of_not_esc hesc]

end Sys2Proof.Machine
end

section
/-! PROOFS. The cycles that handle no token (40_pipeline.md R100, R101): the token a cycle presents, the cycle without
one, and the reset cycle. -/

namespace Sys2Proof.Machine

/-! ## The token of a cycle -/

theorem cycleToken_of_not_valid {c : Cycle} (h : c.valid = false) : cycleToken c = none := by
  simp [cycleToken, h]

theorem cycleToken_of_valid {c : Cycle} (h : c.valid = true) :
    cycleToken c = some (if c.eos then .eos else .byte c.data) := by
  cases he : c.eos with
  | true => simp [cycleToken, h, he]
  | false => simp [cycleToken, h, he]

/-- Settles O9: without `in_valid` no token is presented, whatever the other pins say (`cycleToken_of_not_valid`), and
the block waits (`step_idle`). -/
theorem idleCycleChangesNothing : Obligations.IdleCycleChangesNothing := by
  unfold Obligations.IdleCycleChangesNothing
  exact ⟨fun _ _ _ _ hin => step_idle hin rfl (cycleToken_of_not_valid rfl), fun _ _ => cycleToken_of_valid rfl⟩

/-! ## The reset cycle -/

/-- A reset cycle leaves the block seeking, with every frame register idle, as after reset (R101, 10_state.md R33). -/
theorem resetCycle_idle (s : State) (rest : List Cycle) : Idle (resetCycle s rest) := State.reset_idle

/-- Settles O10: `rst` is looked at before any token (`step_rst`), and the state it leaves is idle with both ports
empty. -/
theorem resetCycleTakesResetValues : Obligations.ResetCycleTakesResetValues := by
  unfold Obligations.ResetCycleTakesResetValues
  intro s valid eos data rest hin
  obtain ⟨hscan, hesc, hasm, hlen, hrem, hsum, hwr⟩ := resetCycle_idle s rest
  exact ⟨resetCycle s rest, step_rst hin rfl, hscan, hesc, hasm, hlen, hrem, hsum, hwr, resetCycle_out s rest,
    resetCycle_diag s rest, resetCycle_input s rest, resetCycle_params s rest⟩

end Sys2Proof.Machine
end

section
/-! PROOFS. The scanner's operations (41_scanner.md R110, R111, R114): the two that keep the whole state, and the start
of a frame as one update of the scanner's flag and the frame registers. -/

namespace Sys2Proof.Machine

theorem exec_skip (b : Byte) (s : State) : exec (.skip b) s = .next s := rfl

theorem exec_eosIdle (s : State) : exec .eosIdle s = .next s := rfl

/-- R111's two lines as one update: no port, pin, parameter or buffer byte is written. -/
theorem startFrame_eq_update (s : State) :
    startFrame s = { s with
      scan := .inFrame, esc := false, asm := .lenHi, len := 0, rem := 0, sum := 0, wr := 0 } := rfl

/-- Settles O12: a byte outside a frame (`exec_skip`) and an end of stream there (`exec_eosIdle`) keep the whole state,
the two ports included. -/
theorem skipAndEosIdleChangeNothing : Obligations.SkipAndEosIdleChangeNothing := by
  unfold Obligations.SkipAndEosIdleChangeNothing
  exact fun s b => ⟨exec_skip b s, exec_eosIdle s⟩

/-- Settles O13: the next state is `startFrame s` (`exec_sof`), which `startFrame_eq_update` writes out field by
field. -/
theorem sofStartsFreshFrame : Obligations.SofStartsFreshFrame := by
  unfold Obligations.SofStartsFreshFrame
  intro s
  rw [exec_sof, startFrame_eq_update]

end Sys2Proof.Machine
end

section
/-! PROOFS. The unescaper's operations (42_unescaper.md R120 to R123): the marker, the truncation, and a raw byte, which
is the delivery of one byte (40_pipeline.md R105) with `esc` cleared. -/

namespace Sys2Proof

/-- The checksum test as an equation of bytes (30_encoding.md R74). -/
theorem checksumGood_iff_add {sum u : Byte} : checksumGood sum u = true ↔ sum + u = 0xFF := beq_iff_eq

end Sys2Proof

namespace Sys2Proof.Machine

/-! ## The end of a frame -/

theorem exec_eosTrunc (s : State) : exec .eosTrunc s = .next (resync (emitDiag s .truncated)) := rfl

/-- R216's two lines as one update: no port, pin, parameter or buffer byte is written. -/
theorem resync_eq_update (s : State) :
    resync s = { s with
      scan := .seek, esc := false, asm := .lenHi, len := 0, rem := 0, sum := 0, wr := 0 } := rfl

/-! ## The delivery of a byte, one equation for each state of the assembler -/

section Deliver
variable {u : Byte} {s : State}

theorem deliver_of_lenHi (h : s.asm = .lenHi) : deliver u s = .next (lenHiState u s) := by
  rw [deliver, h, execLenHi, lenHiState]

theorem deliver_of_lenLo (h : s.asm = .lenLo) : deliver u s = .next (lenLoState u s) := by
  rw [deliver, h, execLenLo, lenLoState]

theorem deliver_of_payload (h : s.asm = .payload) (hwr : s.wr.toNat < s.params.bufBytes) :
    deliver u s = .next (collectedState u s) := by
  simp only [deliver, h, execCollect_eq, if_pos hwr]

theorem deliver_of_csum_good {frame : List Byte} (h : s.asm = .csum) (hsum : s.sum + u = 0xFF)
    (hframe : verifiedFrame s = some frame) :
    deliver u s = .next (resync (emitOut s (frameEvent s.params.schema frame))) := by
  simp only [deliver, h, if_pos (checksumGood_iff_add.2 hsum), execCheckGood_of_frame u hframe]

theorem deliver_of_csum_bad (h : s.asm = .csum) (hsum : s.sum + u ≠ 0xFF) :
    deliver u s = .next (resync (emitDiag s .checksumFailed)) := by
  simp only [deliver, h, if_neg (mt checksumGood_iff_add.1 hsum), execCheckBad]

end Deliver

/-- Each of the two raw-byte operations delivers its own value u and clears `esc` (R121, R122). -/
theorem exec_rawByte {i : Instr} {b u : Byte} (s : State)
    (h : (i, u) ∈ [(Instr.escByte b, b ^^^ 0x20), (Instr.plainByte b, b)]) :
    exec i s = deliver u { s with esc := false } := by
  simp only [List.mem_cons, Prod.mk.injEq, List.not_mem_nil, or_false] at h
  obtain ⟨hi, hu⟩ | ⟨hi, hu⟩ := h
  · rw [hi, hu, exec_escByte, unescape, Config.escXor]
  · rw [hi, hu, exec_plainByte]

/-- Settles O15: both operations are one delivery (`exec_rawByte`), and each value of `asm` has its equation
(`deliver_of_lenHi` to `deliver_of_csum_bad`), which the statement writes out field by field. -/
theorem rawByteResult : Obligations.RawByteResult := by
  unfold Obligations.RawByteResult
  intro s b u i hi
  rw [exec_rawByte s hi]
  exact ⟨fun hasm => deliver_of_lenHi hasm, fun hasm => deliver_of_lenLo hasm,
    fun hasm hwr => deliver_of_payload hasm hwr,
    fun _ hasm hsum hframe => deliver_of_csum_good hasm hsum hframe,
    fun hasm hsum => deliver_of_csum_bad hasm hsum⟩

/-- Settles O14: the next state is the old one with `esc` set (`exec_escMark`), so nothing reached the assembler. -/
theorem escMarkSetsEscOnly : Obligations.EscMarkSetsEscOnly := by
  unfold Obligations.EscMarkSetsEscOnly
  exact exec_escMark

/-- Settles O16: the operation is a diagnostic and a `resync` (`exec_eosTrunc`), whatever `esc` and `asm` hold;
`resync_eq_update` writes it out field by field. -/
theorem eosTruncReportsTruncated : Obligations.EosTruncReportsTruncated := by
  unfold Obligations.EosTruncReportsTruncated
  intro s
  rw [exec_eosTrunc, resync_eq_update, emitDiag]

end Sys2Proof.Machine
end

section
/-! PROOFS. The assembler's operations (43_assembler.md R130 to R135): the length in naturals, the one byte `COLLECT`
stores, the two ends of a frame, and the frame of length 0. -/

namespace Sys2Proof.Machine

/-! ## The length -/

/-- The high byte of the length stands at weight 256; none of its bits is shifted out (R130). -/
theorem setWidth_shiftLeft_toNat (u : Byte) : (u.setWidth 16 <<< 8 : U16).toNat = u.toNat * 256 := by
  have hu : u.toNat < 256 := u.isLt
  simp only [BitVec.toNat_shiftLeft, BitVec.toNat_setWidth, Nat.shiftLeft_eq]
  omega

/-- OR adds the low byte to a length whose low byte is 0 (R131). -/
theorem joinedLength_toNat {s : State} {h : Byte} (u : Byte) (hlen : s.len.toNat = h.toNat * 256) :
    (joinedLength s u).toNat = be [h, u] := by
  have hu : u.toNat < 2 ^ 8 := u.isLt
  have hwidth : (u.setWidth 16).toNat = u.toNat := BitVec.toNat_setWidth_of_le (by decide)
  calc (joinedLength s u).toNat = 2 ^ 8 * h.toNat ||| u.toNat := by
        rw [joinedLength, BitVec.toNat_or, hwidth, hlen, Nat.mul_comm]
    _ = 2 ^ 8 * h.toNat + u.toNat := (Nat.two_pow_add_eq_or_of_lt hu h.toNat).symm
    _ = be [h, u] := by rw [be_pair, Nat.mul_comm]

/-- Settles O17: the next state is `lenHiState u s` (`exec_lenHi`), and its length is the byte at weight 256
(`setWidth_shiftLeft_toNat`). -/
theorem lenHiResult : Obligations.LenHiResult := by
  unfold Obligations.LenHiResult
  exact fun s u => ⟨lenHiState u s, exec_lenHi u s, rfl, setWidth_shiftLeft_toNat u⟩

/-- Settles O18: the next state is `lenLoState u s` (`exec_lenLo`), and OR joins the two bytes of the length
(`joinedLength_toNat`). -/
theorem lenLoResult : Obligations.LenLoResult := by
  unfold Obligations.LenLoResult
  exact fun s u => ⟨exec_lenLo u s, fun _ hlen => joinedLength_toNat u hlen⟩

/-! ## The collected byte -/

theorem exec_collect (u : Byte) {s : State} (h : s.wr.toNat < s.params.bufBytes) :
    exec (.collect u) s = .next (collectedState u s) :=
  (execCollect_eq u s).trans (if_pos h)

/-- A write is seen at its own address and nowhere else (20_memory.md R55). -/
theorem Memory.read_write (m : Memory) (a b : Nat) (v : Byte) :
    (m.write a v).read b = if b = a then some v else m.read b := by
  split_ifs with h
  · rw [h, Memory.read_write_same]
  · exact Memory.read_write_other m v h

/-- Settles O19: the next state is `collectedState u s` (`exec_collect`); its buffer is one write at `wr`
(`Memory.read_write`), its sum one 8-bit addition (`sumAdd_toNat`). -/
theorem collectResult : Obligations.CollectResult := by
  unfold Obligations.CollectResult
  exact fun s u hwr => ⟨collectedState u s, exec_collect u hwr, rfl,
    fun a => Memory.read_write s.buf s.wr.toNat a u, sumAdd_toNat s.sum u, rfl⟩

/-! ## The two ends of a frame -/

theorem exec_checkGood_of_frame {s : State} {frame : List Byte} (u : Byte) (h : verifiedFrame s = some frame) :
    exec (.checkGood u) s = .next (resync (emitOut s (frameEvent s.params.schema frame))) :=
  execCheckGood_of_frame u h

theorem exec_checkBad (u : Byte) (s : State) :
    exec (.checkBad u) s = .next (resync (emitDiag s .checksumFailed)) := rfl

/-- Settles O21: the operation is the event of the Verified Frame and a `resync` (`exec_checkGood_of_frame`), written
out field by field (`resync_eq_update`). -/
theorem checkGoodResult : Obligations.CheckGoodResult := by
  unfold Obligations.CheckGoodResult
  intro s u frame hframe
  rw [exec_checkGood_of_frame u hframe, resync_eq_update, emitOut]

/-- Settles O22: the operation is a diagnostic and a `resync` (`exec_checkBad`), written out field by field
(`resync_eq_update`). -/
theorem checkBadResult : Obligations.CheckBadResult := by
  unfold Obligations.CheckBadResult
  intro s u
  rw [exec_checkBad, resync_eq_update, emitDiag]

/-! ## The frame of length 0 -/

section ZeroLength
variable {s : State}

theorem joinedLength_zero (h : s.len = 0) : joinedLength s 0 = 0 := by
  rw [joinedLength, h]
  rfl

/-- A length of 0 goes past `PAYLOAD`, straight to the checksum (R131, R135). -/
theorem lenLoState_asm_of_zero {u : Byte} (h : joinedLength s u = 0) : (lenLoState u s).asm = .csum := if_pos h

/-- The Verified Frame of length 0 is empty, whatever stale bytes the buffer holds. -/
theorem verifiedFrame_of_len_zero (h : s.len = 0) : verifiedFrame s = some [] := by
  rw [verifiedFrame, h]
  rfl

theorem exec_plainByte_zeroLength_good {u : Byte} (hasm : s.asm = .csum) (hlen : s.len = 0) (hsum : s.sum + u = 0xFF) :
    exec (.plainByte u) s = .next (resync { s with out := some (.decodeFailure none .emptyFrame none) }) := by
  rw [exec_plainByte]
  exact deliver_of_csum_good (s := { s with esc := false }) hasm hsum (verifiedFrame_of_len_zero hlen)

theorem exec_plainByte_csum_bad {u : Byte} (hasm : s.asm = .csum) (hsum : s.sum + u ≠ 0xFF) :
    exec (.plainByte u) s = .next (resync { s with diag := some .checksumFailed }) := by
  rw [exec_plainByte]
  exact deliver_of_csum_bad (s := { s with esc := false }) hasm hsum

end ZeroLength

/-- Settles O23: the second zero byte leaves the length 0, so the assembler waits for the checksum
(`lenLoState_asm_of_zero`); with nothing summed that byte is good exactly when it is itself 0xFF, and the Verified Frame
is then the empty one (`verifiedFrame_of_len_zero`). -/
theorem zeroLengthFrame : Obligations.ZeroLengthFrame := by
  unfold Obligations.ZeroLengthFrame
  refine ⟨fun s hasm hlen hsum => ?_, fun s u hasm hlen hsum => ?_⟩
  · have hjoined : joinedLength { s with esc := false } 0 = 0 := joinedLength_zero hlen
    exact ⟨lenLoState 0 { s with esc := false }, (exec_plainByte 0 s).trans (deliver_of_lenLo hasm),
      lenLoState_asm_of_zero hjoined, hjoined, hsum, rfl⟩
  · have hadd : s.sum + u = u := by rw [hsum, zero_add]
    split_ifs with hu
    · exact exec_plainByte_zeroLength_good hasm hlen (hadd.trans hu)
    · exact exec_plainByte_csum_bad hasm fun h => hu (hadd.symm.trans h)

end Sys2Proof.Machine
end

section
/-! PROOFS. The field engine (44_dispatcher.md R155 to R161, R163): a walk that goes on after the fields it has read,
and one plain or checked field as a bounds test and then a value test. -/

namespace Sys2Proof.Machine

/-! ## The walk of a format -/

/-- A walk that succeeds read its first field and then walked the rest from the new cursor. -/
theorem readFields_cons_ok {frame : List Byte} {f : Field} {fs : List Field} {pos q : Nat} {vs : Fields}
    (h : readFields frame (f :: fs) pos = .ok (vs, q)) :
    ∃ v p w, readField frame f pos = .ok (v, p) ∧ readFields frame fs p = .ok (w, q) ∧ vs = v ++ w := by
  simp only [readFields] at h
  split at h
  · cases h
  · next v p hf =>
    split at h
    · cases h
    · next w q' hfs =>
      cases h
      exact ⟨v, p, w, hf, hfs, rfl⟩

/-- Fields that were read stand in the record, and the walk goes on after them. -/
theorem finish_append_ok (variant : Variant) (tl : FieldName) {frame : List Byte} {acc vs : Fields}
    {before after : List Field} {pos q : Nat} (h : readFields frame before pos = .ok (vs, q)) :
    finish variant tl frame acc (readFields frame (before ++ after) pos) =
      finish variant tl frame (acc ++ vs) (readFields frame after q) := by
  induction before generalizing acc vs pos with
  | nil =>
    cases h
    rw [List.nil_append, List.append_nil]
  | cons f fs ih =>
    obtain ⟨v, p, w, hf, hfs, rfl⟩ := readFields_cons_ok h
    rw [List.cons_append, finish_cons_ok variant tl frame acc (fs ++ after) pos hf, ih hfs, List.append_assoc]

/-- The first failure is the event, whatever stands behind it in the format (R163). -/
theorem runFields_of_error (v : Variant) {frame : List Byte} {before : List Field} (after : List Field) {f : Field}
    (tl : FieldName) {vs : Fields} {pos : Nat} {e : Failure} (hok : readFields frame before 1 = .ok (vs, pos))
    (herr : readField frame f pos = .error e) :
    runFields v ⟨before ++ f :: after, tl⟩ frame = .decodeFailure (some v.tag) e.reason (some e.field) := by
  rw [runFields_eq_finish, finish_append_ok v tl hok, finish_cons_error v tl frame _ after pos herr]

/-- A walk without a failure is a record, with the tail behind its fields (R155, R161). -/
theorem runFields_of_ok (v : Variant) {frame : List Byte} {fields : List Field} (tl : FieldName) {vs : Fields}
    {pos : Nat} (hok : readFields frame fields 1 = .ok (vs, pos)) :
    runFields v ⟨fields, tl⟩ frame = .record v (vs ++ [(tl, tailFrom frame pos)]) := by
  rw [runFields_eq_finish, hok, finish, List.nil_append]

theorem tailFrom_length (frame : List Byte) : tailFrom frame frame.length = .bytes [] := by
  rw [tailFrom, Nat.sub_self, memBytes_zero]

/-! ## One plain or checked field -/

section Read
variable {frame : List Byte} {pos n : Nat} {name : FieldName} {v : Value} {good : Bool} {bad : Reason}

theorem readPlain_of_fits (h : pos + n ≤ frame.length) : readPlain frame pos n name v = .ok ([(name, v)], pos + n) :=
  if_pos (fits_iff.2 h)

theorem readChecked_of_fits (h : pos + n ≤ frame.length) :
    readChecked frame pos n name v good bad =
      if good = true then .ok ([(name, v)], pos + n) else .error ⟨bad, name⟩ :=
  if_pos (fits_iff.2 h)

/-- The bounds test comes before the value test (R163). -/
theorem readChecked_of_short (h : frame.length < pos + n) :
    readChecked frame pos n name v good bad = .error ⟨.shortFrame, name⟩ :=
  if_neg fun hf => Nat.not_le.2 h (fits_iff.1 hf)

end Read

/-- Settles O43: the walk goes on after the fields it has read and ends at the first failure (`runFields_of_error`), and
a checked read makes its bounds test first (`readChecked_of_short`). -/
theorem firstFailureWins : Obligations.FirstFailureWins := by
  unfold Obligations.FirstFailureWins
  exact ⟨fun v _ _ after _ tl _ _ _ hok herr => runFields_of_error v after tl hok herr,
    fun _ _ _ _ _ _ => ⟨fun h _ => readChecked_of_short h, fun h _ => readChecked_of_short h,
      fun h _ => readChecked_of_short h⟩⟩

/-- Settles O45: a field whose bytes are there takes any value (`readPlain_of_fits`) or one that passes its test
(`readChecked_of_fits`), and the tail stands behind the fields (`runFields_of_ok`). -/
theorem fieldKindsResult : Obligations.FieldKindsResult := by
  unfold Obligations.FieldKindsResult
  refine ⟨fun frame name pos n hfit => ⟨?_, ?_, ?_, readPlain_of_fits hfit, ?_, ?_, ?_⟩,
    fun v frame fields tl vs pos hok _ => ⟨runFields_of_ok v tl hok, ?_⟩, rfl, rfl⟩
  · rintro rfl
    exact readPlain_of_fits hfit
  · rintro rfl
    exact readPlain_of_fits hfit
  · rintro rfl
    exact readPlain_of_fits hfit
  · rintro c rfl
    simp only [readField, readChecked_of_fits hfit, beq_iff_eq]
  · rintro c rfl
    simp only [readField, readChecked_of_fits hfit, beq_iff_eq]
  · rintro set rfl
    simp only [readField, readChecked_of_fits hfit, List.contains_iff_mem]
  · rintro rfl
    exact tailFrom_length frame

end Sys2Proof.Machine
end

section
/-! PROOFS. `SHORT_FRAME` (44_dispatcher.md R162): the bounds test of the seven plain and checked kinds, of the analog
samples of an IO sample as a table of rising addresses, of its digital samples word and of its two masks. -/

namespace Sys2Proof.Machine

/-! ## The plain and checked kinds -/

/-- A plain read is a checked one that any value passes (R157). -/
theorem readPlain_eq_readChecked {frame : List Byte} {pos n : Nat} {name : FieldName} {v : Value} (bad : Reason) :
    readPlain frame pos n name v = readChecked frame pos n name v true bad := rfl

theorem readChecked_eq_shortFrame_iff {frame : List Byte} {pos n : Nat} {name : FieldName} {v : Value} {good : Bool}
    {bad : Reason} (hbad : bad ≠ .shortFrame) :
    readChecked frame pos n name v good bad = .error ⟨.shortFrame, name⟩ ↔ frame.length < pos + n := by
  refine ⟨fun h => ?_, readChecked_of_short⟩
  by_contra hfit
  rw [readChecked_of_fits (Nat.le_of_not_lt hfit)] at h
  split at h
  · cases h
  · injection h with hfailure
    injection hfailure with hreason
    exact hbad hreason

/-- The seven plain and checked field kinds, with the name and the size of the field (30_encoding.md R78). -/
abbrev PlainOrChecked (f : Field) (name : FieldName) (n : Nat) : Prop :=
  f = .u8 name ∧ n = 1 ∨ f = .u16 name ∧ n = 2 ∨ f = .u64 name ∧ n = 8 ∨ f = .bytes name n ∨
    (∃ c, f = .const8 name c) ∧ n = 1 ∨ (∃ c, f = .const16 name c) ∧ n = 2 ∨ (∃ set, f = .enum8 name set) ∧ n = 1

/-- Each of the seven is one read of its own size, under its own name, whose value test never says `SHORT_FRAME`. -/
theorem readField_eq_readChecked {f : Field} {name : FieldName} {n : Nat} (hf : PlainOrChecked f name n)
    (frame : List Byte) (pos : Nat) :
    ∃ v good bad, bad ≠ .shortFrame ∧ readField frame f pos = readChecked frame pos n name v good bad := by
  have hconst : Reason.constMismatch ≠ .shortFrame := by decide
  have henum : Reason.enumOutOfSet ≠ .shortFrame := by decide
  obtain ⟨rfl, rfl⟩ | ⟨rfl, rfl⟩ | ⟨rfl, rfl⟩ | rfl | ⟨⟨c, rfl⟩, rfl⟩ | ⟨⟨c, rfl⟩, rfl⟩ | ⟨⟨set, rfl⟩, rfl⟩ := hf
  · exact ⟨_, _, _, hconst, readPlain_eq_readChecked .constMismatch⟩
  · exact ⟨_, _, _, hconst, readPlain_eq_readChecked .constMismatch⟩
  · exact ⟨_, _, _, hconst, readPlain_eq_readChecked .constMismatch⟩
  · exact ⟨_, _, _, hconst, readPlain_eq_readChecked .constMismatch⟩
  · exact ⟨_, _, _, hconst, rfl⟩
  · exact ⟨_, _, _, hconst, rfl⟩
  · exact ⟨_, _, _, henum, rfl⟩

theorem readField_eq_shortFrame_iff {f : Field} {name : FieldName} {n : Nat} (hf : PlainOrChecked f name n)
    (frame : List Byte) (pos : Nat) :
    readField frame f pos = .error ⟨.shortFrame, name⟩ ↔ frame.length < pos + n := by
  obtain ⟨v, good, bad, hbad, hread⟩ := readField_eq_readChecked hf frame pos
  rw [hread, readChecked_eq_shortFrame_iff hbad]

/-! ## The analog samples -/

theorem firstPast_eq_find? (len : Nat) (tbl : List (FieldName × Nat)) :
    firstPast len tbl = (tbl.find? fun ne => len < ne.2).map Prod.fst := by
  induction tbl with
  | nil => rfl
  | cons ne tbl ih =>
    rw [firstPast, ih, List.find?_cons]
    by_cases h : len < ne.2
    · simp [h]
    · simp [h]

/-- The addresses of the samples rise, so all before the k-th fit exactly when the last of them does. -/
theorem samples_before_fit_iff {len pos k : Nat} :
    (∀ j < k, pos + 2 * j + 2 ≤ len) ↔ k = 0 ∨ pos + 2 * k ≤ len := by
  refine ⟨fun h => ?_, fun h j hj => by omega⟩
  obtain rfl | hk := Nat.eq_zero_or_pos k
  · exact .inl rfl
  · have hlast := h (k - 1) (by omega)
    omega

/-- The analog sample that stops the walk is the first whose two bytes do not fit. -/
theorem firstPast_samples_iff {len pos : Nat} {cs : List Channel} {c : Channel} :
    firstPast len (cs.zipIdx.map fun ck => (.asample ck.1, pos + 2 * ck.2 + 2)) = some (.asample c) ↔
      ∃ k, (c, k) ∈ cs.zipIdx ∧ (k = 0 ∨ pos + 2 * k ≤ len) ∧ pos + 2 * k + 2 > len := by
  simp only [firstPast_eq_find?, List.find?_map, Option.map_map, Option.map_eq_some_iff, Function.comp_apply,
    List.find?_eq_some_iff_getElem, List.getElem_zipIdx, FieldName.asample.injEq, decide_eq_true_eq, Nat.zero_add,
    Bool.not_eq_true', decide_eq_false_iff_not, Nat.not_lt, samples_before_fit_iff, List.mk_mem_zipIdx_iff_getElem?]
  constructor
  · rintro ⟨_, ⟨hpast, k, hk, rfl, hbefore⟩, rfl⟩
    exact ⟨k, List.getElem?_eq_getElem _, hbefore, hpast⟩
  · rintro ⟨k, hget, hbefore, hpast⟩
    obtain ⟨hk, rfl⟩ := List.getElem?_eq_some_iff.1 hget
    exact ⟨(cs[k], k), ⟨hpast, k, by simpa using hk, rfl, hbefore⟩, rfl⟩

theorem readAnalog_eq_shortFrame_iff {frame : List Byte} {amask : Byte} {pos : Nat} {c : Channel} :
    readAnalog frame amask Channel.order pos = .error ⟨.shortFrame, .asample c⟩ ↔
      ∃ k, (c, k) ∈ setChannels amask ∧ (k = 0 ∨ pos + 2 * k ≤ frame.length) ∧ pos + 2 * k + 2 > frame.length := by
  rw [readAnalog_eq, setChannels_eq, ← firstPast_samples_iff]
  cases firstPast frame.length _ with
  | none => simp
  | some f => simp

/-- An analog sample fails under a channel's name only. -/
theorem readAnalog_error {frame : List Byte} {amask : Byte} {cs : List Channel} {pos : Nat} {e : Failure}
    (h : readAnalog frame amask cs pos = .error e) : ∃ c, e.field = .asample c := by
  induction cs generalizing pos with
  | nil => cases h
  | cons c cs ih =>
    simp only [readAnalog] at h
    split at h
    · split at h
      · split at h
        · cases h
        · next hr =>
          cases h
          exact ih hr
      · cases h
        exact ⟨c, rfl⟩
    · exact ih h

/-! ## The digital samples word and the two masks -/

theorem readDigital_of_zero {frame : List Byte} {dmask : U16} {pos : Nat} (h : dmask = 0) :
    readDigital frame dmask pos = .ok (none, pos) :=
  if_neg (by simpa using h)

theorem readDigital_of_ne_zero {frame : List Byte} {dmask : U16} {pos : Nat} (h : dmask ≠ 0) :
    readDigital frame dmask pos =
      if frame.length < pos + 2 then .error ⟨.shortFrame, .dsamples⟩
      else .ok (some (read16 frame pos), pos + 2) := by
  rw [readDigital, if_pos (by simpa using h)]
  split_ifs with hfit hshort hshort
  · exact absurd (fits_iff.1 hfit) (Nat.not_le.2 hshort)
  · rfl
  · rfl
  · exact absurd (fits_iff.2 (Nat.le_of_not_lt hshort)) hfit

theorem readDigital_eq_shortFrame_iff {frame : List Byte} {dmask : U16} {pos : Nat} :
    readDigital frame dmask pos = .error ⟨.shortFrame, .dsamples⟩ ↔ dmask ≠ 0 ∧ frame.length < pos + 2 := by
  by_cases hd : dmask = 0
  · rw [readDigital_of_zero hd]
    exact ⟨nofun, fun h => absurd hd h.1⟩
  · rw [readDigital_of_ne_zero hd]
    refine ⟨fun h => ⟨hd, ?_⟩, fun h => if_pos h.2⟩
    by_contra hfit
    rw [if_neg hfit] at h
    cases h

/-- The digital samples word fails under its own name only. -/
theorem readDigital_error {frame : List Byte} {dmask : U16} {pos : Nat} {e : Failure}
    (h : readDigital frame dmask pos = .error e) : e.field = .dsamples := by
  by_cases hd : dmask = 0
  · rw [readDigital_of_zero hd] at h
    cases h
  · rw [readDigital_of_ne_zero hd] at h
    split at h
    · cases h
      rfl
    · cases h

/-- Behind the two masks no failure names a mask. -/
theorem readSamples_error {frame : List Byte} {dmask : U16} {amask : Byte} {pos : Nat} {e : Failure}
    (h : readSamples frame dmask amask pos = .error e) : e.field ≠ .dmask ∧ e.field ≠ .amask := by
  unfold readSamples at h
  split at h
  · next hd =>
    cases h
    simp [readDigital_error hd]
  · split at h
    · next ha =>
      cases h
      obtain ⟨c, hc⟩ := readAnalog_error ha
      simp [hc]
    · cases h

section Masks
variable {frame : List Byte} {pos : Nat}

theorem readIoSamples_of_dmask_short (h : frame.length < pos + 2) :
    readIoSamples frame pos = .error ⟨.shortFrame, .dmask⟩ :=
  if_neg fun hf => Nat.not_le.2 h (fits_iff.1 hf)

theorem readIoSamples_of_amask_short (hd : pos + 2 ≤ frame.length) (ha : frame.length < pos + 2 + 1) :
    readIoSamples frame pos = .error ⟨.shortFrame, .amask⟩ :=
  (if_pos (fits_iff.2 hd)).trans (if_neg fun hf => Nat.not_le.2 ha (fits_iff.1 hf))

theorem readIoSamples_of_masks_fit (h : pos + 2 + 1 ≤ frame.length) :
    readIoSamples frame pos = readSamples frame (read16 frame pos) (read8 frame (pos + 2)) (pos + 3) :=
  (if_pos (fits_iff.2 (Nat.le_of_succ_le h))).trans (if_pos (fits_iff.2 h))

/-- The two masks are read one after the other; past them no failure names a mask (`readSamples_error`). -/
theorem readIoSamples_eq_shortFrame_iff :
    (readIoSamples frame pos = .error ⟨.shortFrame, .dmask⟩ ↔ pos + 2 > frame.length) ∧
    (readIoSamples frame pos = .error ⟨.shortFrame, .amask⟩ ↔
      pos + 2 ≤ frame.length ∧ pos + 2 + 1 > frame.length) := by
  by_cases hd : pos + 2 ≤ frame.length
  · by_cases ha : pos + 2 + 1 ≤ frame.length
    · rw [readIoSamples_of_masks_fit ha]
      exact ⟨⟨fun h => absurd rfl (readSamples_error h).1, by omega⟩,
        ⟨fun h => absurd rfl (readSamples_error h).2, by omega⟩⟩
    · rw [readIoSamples_of_amask_short hd (Nat.lt_of_not_le ha)]
      simp [hd, Nat.lt_of_not_le ha]
  · rw [readIoSamples_of_dmask_short (Nat.lt_of_not_le hd)]
    simp [hd, Nat.lt_of_not_le hd]

end Masks

/-- Settles O44: each kind is one read of its own size (`readField_eq_shortFrame_iff`), an IO sample reads its masks one
after the other (`readIoSamples_eq_shortFrame_iff`) and behind them what they select (`readDigital_eq_shortFrame_iff`,
`readAnalog_eq_shortFrame_iff`). -/
theorem shortFrameTest : Obligations.ShortFrameTest := by
  unfold Obligations.ShortFrameTest
  refine ⟨fun frame f name n pos hf => readField_eq_shortFrame_iff hf frame pos, fun frame pos => ?_⟩
  obtain ⟨hdmask, hamask⟩ := readIoSamples_eq_shortFrame_iff (frame := frame) (pos := pos)
  exact ⟨hdmask, hamask, fun _ => readDigital_eq_shortFrame_iff, fun _ _ => readAnalog_eq_shortFrame_iff⟩

end Sys2Proof.Machine
end

section
/-! PROOFS. The operations that walk no format: the default arm and the empty frame (44_dispatcher.md R151, R153). -/

namespace Sys2Proof.Machine

theorem exec_unknown (tag : Byte) (payload : List Byte) (s : State) :
    exec (.unknown tag payload) s = .next (emitOut s (.unknown tag payload)) := rfl

theorem exec_empty (s : State) : exec .empty s = .next (emitOut s (.decodeFailure none .emptyFrame none)) := rfl

/-- Settles O38: no field is read (`exec_unknown`), so the one event is the tag and the bytes after it. -/
theorem unknownRecord : Obligations.UnknownRecord := by
  unfold Obligations.UnknownRecord
  intro s tag payload
  rw [exec_unknown, emitOut]

/-- Settles O39: the empty frame has one event whatever the state (`exec_empty`), and only the record port takes it. -/
theorem emptyFrameFails : Obligations.EmptyFrameFails := by
  unfold Obligations.EmptyFrameFails
  intro s
  rw [exec_empty, emitOut]

end Sys2Proof.Machine
end

section
/-! PROOFS. The fixed records (45_fixed_records.md): a plain field of a format as a row of the table of addresses its
rule lists, and `MODEM_STATUS` (R170). -/

namespace Sys2Proof.Machine

/-- The walk at a plain field, in the statements' words: `SHORT_FRAME` by the row of the field, else the rest of the walk
(R157, R162). The tag of the record is the frame's first byte. -/
theorem finish_plain_eq_shortOr {variant : Variant} {tl : FieldName} {frame : List Byte} {acc : Fields} {f : Field}
    {fs : List Field} {pos n : Nat} {name : FieldName} {v : Value} (htag : frame.head? = some variant.tag)
    (h : readField frame f pos = readPlain frame pos n name v) :
    finish variant tl frame acc (readFields frame (f :: fs) pos) =
      shortOr frame [(name, pos + n)] (finish variant tl frame (acc ++ [(name, v)]) (readFields frame fs (pos + n))) := by
  rw [finish_plain variant tl frame acc fs pos name h, shortOr_cons, shortOr_nil, htag]

/-- The walk of `MODEM_STATUS`: the status byte at 1 and the tail from 2 (R170). -/
theorem finish_modemStatus (body : List Byte) :
    finish .modemStatus .tail (0x8A :: body) [] (readFields (0x8A :: body) [.u8 .status] 1) =
      shortOr (0x8A :: body) [(.status, 2)]
        (.record .modemStatus [(.status, .u8 (read8 (0x8A :: body) 1)), (.tail, tailFrom (0x8A :: body) 2)]) := by
  rw [finish_plain_eq_shortOr rfl rfl, finish_nil, List.nil_append, List.singleton_append]

/-- Settles O24: with the default layout the operation is the walk of its format (`exec_record`), one plain byte and
the tail (`finish_modemStatus`). -/
theorem modemStatusRecord : Obligations.ModemStatusRecord := by
  unfold Obligations.ModemStatusRecord
  rintro s body _ hschema rfl
  rw [← finish_modemStatus]
  exact exec_record hschema .modemStatus body

end Sys2Proof.Machine
end

section
/-! PROOFS. The IO sample record (46_io_sample.md): each read of `IOSAMPLES` as a table of addresses that must fit before
its values stand, and `RX_IO_SAMPLE` assembled from them (R190, R191). -/

namespace Sys2Proof.Machine

/-! ## Reads behind a table of addresses -/

theorem shortOr_append (frame : List Byte) (tbl tbl' : List (FieldName × Nat)) (e : OutEvent) :
    shortOr frame (tbl ++ tbl') e = shortOr frame tbl (shortOr frame tbl' e) := by
  induction tbl with
  | nil => rfl
  | cons ne tbl ih => rw [List.cons_append, shortOr_cons, shortOr_cons, ih]

/-- `shortOr` for a read: the failure that names the first field of the table that does not fit, else the given result. -/
def failShortOr {α : Type} (frame : List Byte) (tbl : List (FieldName × Nat)) (r : Except Failure α) :
    Except Failure α :=
  match firstPast frame.length tbl with
  | some f => .error ⟨.shortFrame, f⟩
  | none   => r

theorem failShortOr_nil {α : Type} (frame : List Byte) (r : Except Failure α) : failShortOr frame [] r = r := rfl

theorem failShortOr_cons {α : Type} (frame : List Byte) (name : FieldName) (n : Nat) (tbl : List (FieldName × Nat))
    (r : Except Failure α) :
    failShortOr frame ((name, n) :: tbl) r =
      if frame.length < n then .error ⟨.shortFrame, name⟩ else failShortOr frame tbl r := by
  simp only [failShortOr, firstPast]
  split_ifs <;> rfl

theorem failShortOr_append {α : Type} (frame : List Byte) (tbl tbl' : List (FieldName × Nat))
    (r : Except Failure α) :
    failShortOr frame (tbl ++ tbl') r = failShortOr frame tbl (failShortOr frame tbl' r) := by
  induction tbl with
  | nil => rfl
  | cons ne tbl ih => rw [List.cons_append, failShortOr_cons, failShortOr_cons, ih]

/-- A table stops every read behind it with one failure, or lets every read through. -/
theorem failShortOr_cases (frame : List Byte) (tbl : List (FieldName × Nat)) :
    (∃ e, ∀ (α : Type) (r : Except Failure α), failShortOr frame tbl r = .error e) ∨
      ∀ (α : Type) (r : Except Failure α), failShortOr frame tbl r = r := by
  unfold failShortOr
  cases firstPast frame.length tbl with
  | some f => exact .inl ⟨⟨.shortFrame, f⟩, fun _ _ => rfl⟩
  | none => exact .inr fun _ _ => rfl

/-- The event of a read behind a table, in the statements' words. -/
theorem finish_failShortOr {variant : Variant} {tl : FieldName} {frame : List Byte} {acc : Fields}
    (htag : frame.head? = some variant.tag) (tbl : List (FieldName × Nat)) (r : FieldResult) :
    finish variant tl frame acc (failShortOr frame tbl r) = shortOr frame tbl (finish variant tl frame acc r) := by
  simp only [failShortOr, shortOr, htag]
  cases firstPast frame.length tbl <;> rfl

/-- The walk at the last field of a format is the read of that field. -/
theorem finish_last (variant : Variant) (tl : FieldName) (frame : List Byte) (acc : Fields) (f : Field) (pos : Nat) :
    finish variant tl frame acc (readFields frame [f] pos) = finish variant tl frame acc (readField frame f pos) := by
  cases h : readField frame f pos with
  | error e => exact finish_cons_error variant tl frame acc [] pos h
  | ok vp =>
    rw [finish_cons_ok variant tl frame acc [] pos h, finish_nil, finish, List.append_assoc]

/-! ## The reads of an IO sample -/

/-- The row of the digital samples word, which is there exactly when the raw mask is not zero (R194). -/
def digitalTable (dmask : U16) : List (FieldName × Nat) := if dmask = 0 then [] else [(.dsamples, 18)]

/-- The rows of the set channels' samples, the first of them at `base` (R195). -/
def analogTable (amask : Byte) (base : Nat) : List (FieldName × Nat) :=
  (setChannels amask).map fun ck => (.asample ck.1, base + 2 * ck.2 + 2)

/-- The samples of the set channels, the first of them at `base` (R195). -/
def analogSamples (frame : List Byte) (amask : Byte) (base : Nat) : List (Channel × U16) :=
  (setChannels amask).map fun ck => (ck.1, read16 frame (base + 2 * ck.2))

/-- The digital samples word, if the raw mask is not zero (R194). -/
def digitalSamples (frame : List Byte) (dmask : U16) : Option U16 := if dmask = 0 then none else some (read16 frame 16)

/-- The digital samples word takes its two bytes at 16 or none; the analog samples begin behind it (R194). -/
theorem readDigital_eq_failShortOr (frame : List Byte) (dmask : U16) :
    readDigital frame dmask 16 =
      failShortOr frame (digitalTable dmask) (.ok (digitalSamples frame dmask, analogBase dmask)) := by
  unfold digitalTable digitalSamples analogBase
  by_cases hd : dmask = 0
  · simp only [if_pos hd, readDigital_of_zero hd, failShortOr_nil]
  · simp only [if_neg hd, readDigital_of_ne_zero hd, failShortOr_cons, failShortOr_nil]

/-- Each set channel takes two bytes, in the tested order; a clear one takes none (R195). -/
theorem readAnalog_eq_failShortOr (frame : List Byte) (amask : Byte) (base : Nat) :
    readAnalog frame amask Channel.order base =
      failShortOr frame (analogTable amask base)
        (.ok (analogSamples frame amask base, base + 2 * analogCount amask)) := by
  rw [readAnalog_eq, analogTable, analogSamples, setChannels_eq, analogCount_eq]
  rfl

/-- The four values that `RX_IO_SAMPLE` reads from its masks on (R191). -/
def sampleFields (frame : List Byte) (dmask : U16) (amask : Byte) : Fields :=
  [(.dmask, .u16 dmask), (.amask, .u8 amask), (.dsamples, .optU16 (digitalSamples frame dmask)),
    (.asamples, .samples (analogSamples frame amask (analogBase dmask)))]

/-- What the masks select, from address 16 on: the digital samples word first, the analog samples behind it (R191). -/
theorem readSamples_eq_failShortOr (frame : List Byte) (dmask : U16) (amask : Byte) :
    readSamples frame dmask amask 16 =
      failShortOr frame (digitalTable dmask ++ analogTable amask (analogBase dmask))
        (.ok (sampleFields frame dmask amask, analogBase dmask + 2 * analogCount amask)) := by
  rw [readSamples, readDigital_eq_failShortOr, failShortOr_append]
  obtain ⟨e, hdigital⟩ | hdigital := failShortOr_cases frame (digitalTable dmask)
  · simp only [hdigital]
  · simp only [hdigital, readAnalog_eq_failShortOr]
    obtain ⟨e, hanalog⟩ | hanalog := failShortOr_cases frame (analogTable amask (analogBase dmask))
    · simp only [hanalog]
    · simp only [hanalog, sampleFields]

/-- `IOSAMPLES` at address 13: both masks, then what they select (R190). -/
theorem readIoSamples_eq_failShortOr (frame : List Byte) :
    readIoSamples frame 13 =
      failShortOr frame [(.dmask, 15), (.amask, 16)] (readSamples frame (read16 frame 13) (read8 frame 15) 16) := by
  rw [failShortOr_cons, failShortOr_cons, failShortOr_nil]
  split_ifs with hd ha
  · exact readIoSamples_of_dmask_short hd
  · exact readIoSamples_of_amask_short (Nat.le_of_not_lt hd) ha
  · exact readIoSamples_of_masks_fit (Nat.le_of_not_lt ha)

/-! ## The record -/

/-- The walk of `RX_IO_SAMPLE`: four plain fields, the two masks, then what they select and the tail (R190, R196). -/
theorem finish_rxIoSample (frame : List Byte) (htag : frame.head? = some Variant.rxIoSample.tag) :
    finish .rxIoSample .tail frame [] (readFields frame fmtRxIoSample.fixed 1) =
      shortOr frame [(.src64, 9), (.src16, 11), (.options, 12), (.sampleCount, 13), (.dmask, 15), (.amask, 16)]
        (shortOr frame (digitalTable (read16 frame 13) ++ analogTable (read8 frame 15) (analogBase (read16 frame 13)))
          (.record .rxIoSample ([(.src64, .u64 (read64 frame 1)), (.src16, .u16 (read16 frame 9)),
            (.options, .u8 (read8 frame 11)), (.sampleCount, .u8 (read8 frame 12))] ++
              (sampleFields frame (read16 frame 13) (read8 frame 15) ++
                [(.tail, tailFrom frame (analogBase (read16 frame 13) + 2 * analogCount (read8 frame 15)))])))) := by
  rw [fmtRxIoSample, inAddr, List.cons_append, List.cons_append, List.nil_append, finish_plain_eq_shortOr htag rfl,
    finish_plain_eq_shortOr htag rfl, finish_plain_eq_shortOr htag rfl, finish_plain_eq_shortOr htag rfl, finish_last,
    readField, readIoSamples_eq_failShortOr, finish_failShortOr htag, readSamples_eq_failShortOr,
    finish_failShortOr htag, finish]
  simp only [← shortOr_append, List.cons_append, List.nil_append]

/-- Settles O37: with the default layout the operation is the walk of its format (`exec_record`), and that walk is the
statement's table and record (`finish_rxIoSample`). -/
theorem rxIoSampleRecord : Obligations.RxIoSampleRecord := by
  unfold Obligations.RxIoSampleRecord
  rintro s body _ _ _ hschema rfl rfl rfl
  refine (exec_record hschema .rxIoSample body).trans ?_
  exact congrArg (fun e => Host.Outcome.next { s with out := some e }) (finish_rxIoSample (0x92 :: body) rfl)

end Sys2Proof.Machine
end

section
/-! PROOFS. The cycle that presents a token (40_pipeline.md R100, R105): what a step can do, with the pins it took, and
the two ways in which a raw byte in frame delivers a value. -/

namespace Sys2Proof.Machine

@[simp] theorem tokenCycle_rst (t : Token) : (tokenCycle t).rst = false := by
  cases t <;> rfl

@[simp] theorem cycleToken_tokenCycle (t : Token) : cycleToken (tokenCycle t) = some t := by
  cases t <;> rfl

theorem step_tokenCycle {s : State} {t : Token} {rest : List Cycle} (h : s.input = tokenCycle t :: rest) :
    step s = exec (decodeToken s.scan s.esc t) (nextCycle s rest) :=
  step_token h (tokenCycle_rst t) (cycleToken_tokenCycle t)

theorem atBeat_of_tokenCycle {s : State} {t : Token} {rest : List Cycle} (h : s.input = tokenCycle t :: rest) :
    atBeat s = true := by
  simp [atBeat, fetch, h]

/-- Everything a cycle can do when it answers a next state, with the cycle it took where there was one. -/
theorem step_cases_of_input {s t : State} (h : step s = .next t) :
    (∃ rest, t = nextCycle s rest) ∨
    (∃ c rest, s.input = c :: rest ∧ c.rst = true ∧ t = resetCycle s rest) ∨
    (∃ c rest tok, s.input = c :: rest ∧ c.rst = false ∧ cycleToken c = some tok ∧
      exec (decodeToken s.scan s.esc tok) (nextCycle s rest) = .next t) := by
  cases hin : s.input with
  | nil =>
    rw [step_nil hin] at h
    cases h
    exact .inl ⟨[], rfl⟩
  | cons c rest =>
    cases hrst : c.rst with
    | true =>
      rw [step_rst hin hrst] at h
      cases h
      exact .inr (.inl ⟨c, rest, rfl, hrst, rfl⟩)
    | false =>
      cases htok : cycleToken c with
      | none =>
        rw [step_idle hin hrst htok] at h
        cases h
        exact .inl ⟨rest, rfl⟩
      | some tok =>
        rw [step_token hin hrst htok] at h
        exact .inr (.inr ⟨c, rest, tok, rfl, hrst, htok, h⟩)

/-! ## The state a delivered byte meets -/

/-- The state a delivered byte is handed to: its cycle taken, both ports empty, no marker pending (40_pipeline.md R104,
R105). -/
def handed (s : State) (rest : List Cycle) : State := { nextCycle s rest with esc := false }

/-- The state a marker leaves: its cycle taken, both ports empty, the marker pending (42_unescaper.md R120). -/
def withMark (s : State) (rest : List Cycle) : State := { nextCycle s rest with esc := true }

theorem handed_withMark (s : State) (r rest : List Cycle) : handed (withMark s r) rest = handed s rest := rfl

section Delivery
variable {s : State} {b : Byte} {rest : List Cycle}

theorem step_plain (hscan : s.scan = .inFrame) (hesc : s.esc = false) (hb : b ≠ Config.esc)
    (hin : s.input = tokenCycle (.byte b) :: rest) : step s = deliver b (handed s rest) := by
  rw [step_tokenCycle hin, hscan, hesc, decodeToken_inFrame_byte hb]
  rfl

theorem step_afterMark (hscan : s.scan = .inFrame) (hesc : s.esc = true)
    (hin : s.input = tokenCycle (.byte b) :: rest) : step s = deliver (unescape b) (handed s rest) := by
  rw [step_tokenCycle hin, hscan, hesc]
  rfl

theorem step_mark (hscan : s.scan = .inFrame) (hesc : s.esc = false)
    (hin : s.input = tokenCycle (.byte Config.esc) :: rest) : step s = .next (withMark s rest) := by
  rw [step_tokenCycle hin, hscan, hesc]
  rfl

end Delivery

end Sys2Proof.Machine
end

section
/-! PROOFS. The whole pipeline against FRAME(c) of the sender (30_encoding.md R90, 40_pipeline.md R106): beats without
an event, one escaped byte as one delivery, the collection of a content byte by byte, and the event of the last beat. -/

namespace Sys2Proof.Machine

/-! ## Beats without an event -/

/-- `k` beats without an event lead from `s` to `t`: what is observed and where a run ends are as from `t`, with the
beat index moved on by `k`. -/
def QuietBeats (k : Nat) (s t : State) : Prop :=
  ∀ n beat, observe (k + n) beat s = observe n (beat + k) t ∧ runFor (k + n) s = runFor n t

theorem runFor_succ {s t : State} (n : Nat) (h : step s = .next t) : runFor (n + 1) s = runFor n t := by
  have hstep : core.step s = .next t := h
  simp only [runFor, Host.Core.run, hstep]
  rfl

theorem observe_succ_quiet {s t : State} (n beat : Nat) (h : step s = .next t) (hevent : t.event = none)
    (hbeat : atBeat s = true) : observe (n + 1) beat s = observe n (beat + 1) t := by
  simp only [observe, h, hevent, hbeat, if_true, List.nil_append]

theorem observe_one_event {s t : State} {e : Event} (beat : Nat) (h : step s = .next t) (hevent : t.event = some e) :
    observe 1 beat s = [(beat, e)] := by
  simp only [observe, h, hevent, List.append_nil]

theorem QuietBeats.zero (s : State) : QuietBeats 0 s s := fun n beat => by
  rw [Nat.zero_add, Nat.add_zero]
  exact ⟨rfl, rfl⟩

theorem QuietBeats.one {s t : State} (h : step s = .next t) (hevent : t.event = none) (hbeat : atBeat s = true) :
    QuietBeats 1 s t := fun n beat => by
  rw [Nat.add_comm 1 n]
  exact ⟨observe_succ_quiet n beat h hevent hbeat, runFor_succ n h⟩

theorem QuietBeats.trans {j k : Nat} {s t u : State} (h : QuietBeats j s t) (h' : QuietBeats k t u) :
    QuietBeats (j + k) s u := fun n beat => by
  rw [Nat.add_assoc, (h (k + n) beat).1, (h (k + n) beat).2, (h' n (beat + j)).1, (h' n (beat + j)).2, Nat.add_assoc]
  exact ⟨rfl, rfl⟩

theorem event_eq_none {t : State} (hout : t.out = none) (hdiag : t.diag = none) : t.event = none := by
  simp [State.event, hout, hdiag]

/-! ## One escaped byte is one delivery -/

theorem byteCycles_append (xs ys : List Byte) : byteCycles (xs ++ ys) = byteCycles xs ++ byteCycles ys :=
  List.map_append

section Escaped
variable {p : Byte → Bool} {u : Byte} {s t : State} {rest : List Cycle}

/-- Whatever the sender escapes beside the marker, the last raw byte of `E(u)` delivers `u`, and the byte before it, if
there is one, is a marker (30_encoding.md R75, R90). -/
theorem escaped_byte_delivered (hscan : s.scan = .inFrame) (hesc : s.esc = false) (hp : p Config.esc = true)
    (hin : s.input = byteCycles (escapeWith p u) ++ rest) :
    ∃ k s', (escapeWith p u).length = k + 1 ∧ QuietBeats k s s' ∧ atBeat s' = true ∧
      step s' = deliver u (handed s rest) := by
  by_cases hu : p u = true
  · rw [escapeWith, if_pos hu] at hin ⊢
    have hmarked : (withMark s (byteCycles [unescape u] ++ rest)).input = tokenCycle (.byte (unescape u)) :: rest := rfl
    have hlast := step_afterMark (s := withMark s _) hscan rfl hmarked
    rw [unescape_unescape, handed_withMark] at hlast
    exact ⟨1, _, rfl, .one (step_mark hscan hesc hin) rfl (atBeat_of_tokenCycle hin), atBeat_of_tokenCycle hmarked,
      hlast⟩
  · rw [escapeWith, if_neg hu] at hin ⊢
    have hne : u ≠ Config.esc := fun h => hu (h ▸ hp)
    exact ⟨0, s, rfl, QuietBeats.zero s, atBeat_of_tokenCycle hin, step_plain hscan hesc hne hin⟩

theorem QuietBeats.of_delivered (hscan : s.scan = .inFrame) (hesc : s.esc = false) (hp : p Config.esc = true)
    (hin : s.input = byteCycles (escapeWith p u) ++ rest) (hdeliver : deliver u (handed s rest) = .next t)
    (hevent : t.event = none) : QuietBeats (escapeWith p u).length s t := by
  obtain ⟨k, s', hlen, hquiet, hbeat, hstep⟩ := escaped_byte_delivered hscan hesc hp hin
  rw [hlen]
  exact hquiet.trans (.one (hstep.trans hdeliver) hevent hbeat)

/-- The event of a delivered byte stands in the beat of its last raw byte. -/
theorem observe_delivered {e : Event} (beat : Nat) (hscan : s.scan = .inFrame) (hesc : s.esc = false)
    (hp : p Config.esc = true) (hin : s.input = byteCycles (escapeWith p u) ++ rest)
    (hdeliver : deliver u (handed s rest) = .next t) (hevent : t.event = some e) :
    observe (escapeWith p u).length beat s = [(beat + (escapeWith p u).length - 1, e)] ∧
      runFor (escapeWith p u).length s = .next t := by
  obtain ⟨k, s', hlen, hquiet, -, hstep⟩ := escaped_byte_delivered hscan hesc hp hin
  have hnext : step s' = .next t := hstep.trans hdeliver
  obtain ⟨hobserve, hrun⟩ := hquiet 1 beat
  rw [hlen, hobserve, hrun, observe_one_event (beat + k) hnext hevent]
  exact ⟨rfl, runFor_succ 0 hnext⟩

end Escaped

/-! ## The collection of a content -/

/-- A block in frame that has collected the bytes `done` and still waits for the bytes `todo` (10_state.md R36). -/
structure Collecting (params : Params) (done todo : List Byte) (s : State) : Prop where
  params_eq : s.params = params
  scan      : s.scan = .inFrame
  esc       : s.esc = false
  asm       : s.asm = if todo = [] then .csum else .payload
  len       : s.len.toNat = done.length + todo.length
  rem       : s.rem.toNat = todo.length
  wr        : s.wr.toNat = done.length
  sum       : s.sum = sumBytes done
  buf       : Memory.readBytes s.buf 0 done.length = some done

/-- A 16-bit counter that is not at its end counts up by one. -/
theorem toNat_add_one {w : U16} (h : w.toNat + 1 < 65536) : (w + 1).toNat = w.toNat + 1 := by
  bv_omega

/-- A 16-bit counter that is not 0 counts down by one. -/
theorem toNat_sub_one {w : U16} (h : 1 ≤ w.toNat) : (w - 1).toNat = w.toNat - 1 := by
  bv_omega

theorem toNat_eq_zero_iff {w : U16} : w.toNat = 0 ↔ w = 0 := BitVec.toNat_inj (y := 0)

/-- Storing a byte at `wr` appends it to the bytes collected (43_assembler.md R132). -/
theorem collectedState_readBytes {s : State} {done : List Byte} (u : Byte) (hwr : s.wr.toNat = done.length)
    (hbuf : Memory.readBytes s.buf 0 done.length = some done) :
    Memory.readBytes (collectedState u s).buf 0 (done.length + 1) = some (done ++ [u]) := by
  simp only [collectedState, collectByte, hwr, Memory.readBytes_write_end, hbuf, Option.map_some]

/-- `COLLECT` moves the next byte from what is waited for to what is collected. -/
theorem Collecting.collect {params : Params} {done todo : List Byte} {u : Byte} {s : State}
    (h : Collecting params done (u :: todo) s) : Collecting params (done ++ [u]) todo (collectedState u s) := by
  have hlen := h.len
  have hrem := h.rem
  have hwr := h.wr
  simp only [List.length_cons] at hlen hrem
  have hlt := s.len.isLt
  have hrem' : (s.rem - 1).toNat = todo.length := by
    rw [toNat_sub_one (by omega)]
    omega
  have hend : s.rem - 1 = 0 ↔ todo = [] := by
    rw [← toNat_eq_zero_iff, hrem', List.length_eq_zero_iff]
  refine ⟨h.params_eq, h.scan, h.esc, ?_, ?_, hrem', ?_, ?_, ?_⟩
  · simp only [collectedState, hend]
  · simp only [List.length_append, List.length_singleton]
    exact hlen.trans (by omega)
  · simp only [List.length_append, List.length_singleton]
    exact (toNat_add_one (by omega)).trans (by omega)
  · rw [sumBytes_append_byte, ← h.sum]
    rfl
  · simpa only [List.length_append, List.length_singleton] using collectedState_readBytes u h.wr h.buf

theorem Collecting.take_cycle {params : Params} {done todo : List Byte} {s : State} (rest : List Cycle)
    (h : Collecting params done todo s) : Collecting params done todo (handed s rest) :=
  ⟨h.params_eq, h.scan, rfl, h.asm, h.len, h.rem, h.wr, h.sum, h.buf⟩

/-- The bytes of a content, each escaped or not, are collected one after the other without an event. -/
theorem Collecting.run {params : Params} {p : Byte → Bool} (hp : p Config.esc = true) {rest : List Cycle}
    (todo : List Byte) {done : List Byte} {s : State} (h : Collecting params done todo s)
    (hroom : done.length + todo.length ≤ params.bufBytes)
    (hin : s.input = byteCycles (todo.flatMap (escapeWith p)) ++ rest) :
    ∃ t, QuietBeats (todo.flatMap (escapeWith p)).length s t ∧ Collecting params (done ++ todo) [] t ∧
      t.input = rest := by
  induction todo generalizing done s with
  | nil =>
    rw [List.append_nil]
    exact ⟨s, QuietBeats.zero s, h, hin⟩
  | cons u todo ih =>
    rw [List.flatMap_cons, byteCycles_append, List.append_assoc] at hin
    rw [List.length_cons] at hroom
    have hhanded := h.take_cycle (byteCycles (todo.flatMap (escapeWith p)) ++ rest)
    have hwr := hhanded.wr
    have hdeliver := deliver_of_payload (u := u) hhanded.asm (by rw [hhanded.params_eq, hwr]; omega)
    have hfirst := QuietBeats.of_delivered h.scan h.esc hp hin hdeliver (event_eq_none rfl rfl)
    obtain ⟨t, hquiet, hcollecting, hinput⟩ :=
      ih hhanded.collect (by simp only [List.length_append, List.length_singleton]; omega) rfl
    refine ⟨t, ?_, ?_, hinput⟩
    · rw [List.flatMap_cons, List.length_append]
      exact hfirst.trans hquiet
    · simpa only [List.append_assoc, List.singleton_append] using hcollecting

/-! ## The delimiter and the two length bytes -/

/-- The two length bytes of a frame, each through `E` (30_encoding.md R73, R90). -/
def lengthBytes (p : Byte → Bool) (n : Nat) : List Byte :=
  escapeWith p (BitVec.ofNat 8 (n / 256)) ++ escapeWith p (BitVec.ofNat 8 n)

theorem frameWith_eq (p : Byte → Bool) (c : List Byte) (k : Byte) :
    frameWith p c k = [Config.delim] ++ (lengthBytes p c.length ++ (c.flatMap (escapeWith p) ++ escapeWith p k)) := by
  simp only [frameWith, lengthBytes, List.append_assoc]

/-- The two length bytes of a content make its length (30_encoding.md R73). -/
theorem be_lengthBytes {n : Nat} (h : n ≤ 65535) : be [BitVec.ofNat 8 (n / 256), BitVec.ofNat 8 n] = n := by
  rw [be_pair, BitVec.toNat_ofNat, BitVec.toNat_ofNat]
  omega

theorem QuietBeats.delim {s : State} {rest : List Cycle} (hscan : s.scan = .seek)
    (hin : s.input = tokenCycle (.byte Config.delim) :: rest) :
    QuietBeats 1 s (startFrame (nextCycle s rest)) := by
  refine .one ?_ rfl (atBeat_of_tokenCycle hin)
  rw [step_tokenCycle hin, hscan]
  rfl

/-- Behind the two length bytes nothing is collected yet, and the whole content is waited for (R130, R131). -/
theorem Collecting.of_lengthBytes {s : State} {hi lo : Byte} {c : List Byte} (r r' : List Cycle)
    (hscan : s.scan = .inFrame) (hsum : s.sum = 0) (hwr : s.wr = 0) (hbe : be [hi, lo] = c.length) :
    Collecting s.params [] c (lenLoState lo (handed (lenHiState hi (handed s r)) r')) := by
  have hjoined : (joinedLength (handed (lenHiState hi (handed s r)) r') lo).toNat = c.length :=
    (joinedLength_toNat lo (setWidth_shiftLeft_toNat hi)).trans hbe
  have hzero : joinedLength (handed (lenHiState hi (handed s r)) r') lo = 0 ↔ c = [] := by
    rw [← toNat_eq_zero_iff, hjoined, List.length_eq_zero_iff]
  refine ⟨rfl, hscan, rfl, ?_, hjoined.trans (Nat.zero_add _).symm, hjoined, congrArg BitVec.toNat hwr, hsum, rfl⟩
  simp only [lenLoState, hzero]

/-- The two length bytes start the collection of the content. -/
theorem QuietBeats.lengthBytes {s : State} {p : Byte → Bool} {c : List Byte} {rest : List Cycle}
    (hp : p Config.esc = true) (hc : c.length ≤ 65535) (hscan : s.scan = .inFrame) (hregs : RegsIdle s)
    (hin : s.input = byteCycles (lengthBytes p c.length) ++ rest) :
    ∃ t, QuietBeats (Machine.lengthBytes p c.length).length s t ∧ Collecting s.params [] c t ∧ t.input = rest := by
  obtain ⟨hesc, hasm, -, -, hsum, hwr⟩ := hregs
  unfold Machine.lengthBytes at hin ⊢
  rw [byteCycles_append, List.append_assoc] at hin
  have hhi := QuietBeats.of_delivered hscan hesc hp hin (deliver_of_lenHi hasm) (event_eq_none rfl rfl)
  have hlo := QuietBeats.of_delivered (s := lenHiState (BitVec.ofNat 8 (c.length / 256)) (handed s _))
    (u := BitVec.ofNat 8 c.length) (rest := rest) hscan rfl hp rfl (deliver_of_lenLo rfl) (event_eq_none rfl rfl)
  rw [List.length_append]
  exact ⟨_, hhi.trans hlo, .of_lengthBytes _ rest hscan hsum hwr (be_lengthBytes hc), rfl⟩

/-! ## The checksum byte -/

/-- The event a frame of content `c` with the checksum byte `k` gives (43_assembler.md R133, R134). -/
def frameResult (sc : Schema) (c : List Byte) (k : Byte) : Event :=
  if k = goodChecksum c then .out (frameEvent sc c) else .diag .checksumFailed

/-- The checksum byte of a content that is collected ends the frame with its one event. -/
theorem Collecting.deliver_checksum {params : Params} {c : List Byte} {s : State} (k : Byte) (rest : List Cycle)
    (h : Collecting params c [] s) :
    ∃ t, deliver k (handed s rest) = .next t ∧ t.event = some (frameResult params.schema c k) ∧ Idle t ∧
      t.input = rest := by
  have hhanded := h.take_cycle rest
  have hgood : (handed s rest).sum + k = 0xFF ↔ k = goodChecksum c := by
    rw [hhanded.sum, ← checksumGood_iff_add, checksumGood_sumBytes_iff]
  have hframe : verifiedFrame (handed s rest) = some c := by
    rw [verifiedFrame, hhanded.len, List.length_nil, Nat.add_zero, hhanded.buf]
  unfold frameResult
  split_ifs with hk
  · refine ⟨_, deliver_of_csum_good hhanded.asm (hgood.2 hk) hframe, ?_, ⟨rfl, rfl, rfl, rfl, rfl, rfl, rfl⟩, rfl⟩
    rw [hhanded.params_eq]
    rfl
  · exact ⟨_, deliver_of_csum_bad hhanded.asm (mt hgood.1 hk), rfl, ⟨rfl, rfl, rfl, rfl, rfl, rfl, rfl⟩, rfl⟩

/-- Settles O60: the delimiter, the two length bytes and the content pass without an event (`QuietBeats.delim`,
`QuietBeats.lengthBytes`, `Collecting.run`), and the last raw byte of the checksum byte brings the one event
(`Collecting.deliver_checksum`). -/
theorem frameYieldsItsOneEvent : Obligations.FrameYieldsItsOneEvent := by
  unfold Obligations.FrameYieldsItsOneEvent
  intro s p c k rest beat hidle hp hlen hroom hin
  rw [frameWith_eq, byteCycles_append, byteCycles_append, byteCycles_append] at hin
  simp only [List.append_assoc] at hin
  have hdelim := QuietBeats.delim hidle.1 hin
  obtain ⟨t, hlengths, hcollecting, htin⟩ := QuietBeats.lengthBytes hp hlen (startFrame_scan (nextCycle s _))
    ⟨rfl, rfl, rfl, rfl, rfl, rfl⟩ rfl
  obtain ⟨t', hcollect, hcollected, htin'⟩ := hcollecting.run hp c (by simpa using hroom) htin
  obtain ⟨t'', hdeliver, hevent, hidle', hrest⟩ := hcollected.deliver_checksum k rest
  have hquiet := (hdelim.trans hlengths).trans hcollect
  obtain ⟨hobserve, hrun⟩ := hquiet (escapeWith p k).length beat
  obtain ⟨hlast, hend⟩ := observe_delivered (beat + _) hcollected.scan hcollected.esc hp htin' hdeliver hevent
  have hcount : (frameWith p c k).length = 1 + (lengthBytes p c.length).length +
      (c.flatMap (escapeWith p)).length + (escapeWith p k).length := by
    rw [frameWith_eq]
    simp only [List.length_append, List.length_singleton, Nat.add_assoc]
  rw [hcount, hobserve, hlast, hrun, hend, Nat.add_assoc beat]
  exact ⟨rfl, t'', rfl, hidle', hrest⟩

end Sys2Proof.Machine
end

section
/-! PROOFS. What a delivered byte and a cycle show and leave unchanged, in any state: the parameters (20_memory.md R52),
the one event that ends a frame (40_pipeline.md R106), and the origin of a record-port event (40_pipeline.md R102). -/

namespace Sys2Proof.Machine

/-! ## The parameters -/

theorem deliver_params {u : Byte} {s t : State} (h : deliver u s = .next t) : t.params = s.params := by
  obtain ⟨-, rfl⟩ | ⟨-, rfl⟩ | ⟨-, -, rfl⟩ | ⟨-, -, frame, -, rfl⟩ | ⟨-, -, rfl⟩ := deliver_cases h
  · rfl
  · rfl
  · rfl
  · rfl
  · rfl

/-- Settles O57: a reset cycle keeps the parameters (`resetCycle_params`), and no operation of a beat writes them
(`step_cases`, `deliver_params`). -/
theorem parametersNeverChange : Obligations.ParametersNeverChange := by
  unfold Obligations.ParametersNeverChange
  intro s t h
  obtain ⟨r, rfl⟩ | ⟨r, rfl⟩ | ⟨r, -, rfl⟩ | ⟨r, -, rfl⟩ | ⟨r, -, -, rfl⟩ | ⟨r, u, -, hdeliver⟩ := step_cases h
  · exact nextCycle_params s r
  · exact resetCycle_params s r
  · rfl
  · rfl
  · rfl
  · exact deliver_params (s := handed s r) hdeliver

/-! ## The event that ends a frame -/

@[simp] theorem lenHiState_scan (u : Byte) (s : State) : (lenHiState u s).scan = s.scan := rfl
@[simp] theorem lenHiState_out (u : Byte) (s : State) : (lenHiState u s).out = s.out := rfl
@[simp] theorem lenHiState_diag (u : Byte) (s : State) : (lenHiState u s).diag = s.diag := rfl
@[simp] theorem lenLoState_scan (u : Byte) (s : State) : (lenLoState u s).scan = s.scan := rfl
@[simp] theorem lenLoState_out (u : Byte) (s : State) : (lenLoState u s).out = s.out := rfl
@[simp] theorem lenLoState_diag (u : Byte) (s : State) : (lenLoState u s).diag = s.diag := rfl
@[simp] theorem collectedState_scan (u : Byte) (s : State) : (collectedState u s).scan = s.scan := rfl
@[simp] theorem collectedState_out (u : Byte) (s : State) : (collectedState u s).out = s.out := rfl
@[simp] theorem collectedState_diag (u : Byte) (s : State) : (collectedState u s).diag = s.diag := rfl

theorem event_isSome_iff {s : State} : s.event.isSome = true ↔ s.out.isSome = true ∨ s.diag.isSome = true := by
  unfold State.event
  cases s.out <;> simp

/-- A delivered byte presents one event if it ends the frame, and none if it does not. -/
theorem deliver_event {u : Byte} {s t : State} (hscan : s.scan = .inFrame) (hout : s.out = none) (hdiag : s.diag = none)
    (h : deliver u s = .next t) : PortsInv t ∧ (t.event.isSome = true ↔ t.scan = .seek) := by
  obtain ⟨-, rfl⟩ | ⟨-, rfl⟩ | ⟨-, -, rfl⟩ | ⟨-, -, frame, -, rfl⟩ | ⟨-, -, rfl⟩ := deliver_cases h
  · simp [PortsInv, event_isSome_iff, hscan, hout, hdiag]
  · simp [PortsInv, event_isSome_iff, hscan, hout, hdiag]
  · simp [PortsInv, event_isSome_iff, hscan, hout, hdiag]
  · simp [PortsInv, event_isSome_iff, hdiag]
  · simp [PortsInv, event_isSome_iff, hout]

/-- A token presents one event if it ends a frame, and none if it does not. -/
theorem exec_decodeToken_event {s t : State} {tok : Token} {rest : List Cycle}
    (h : exec (decodeToken s.scan s.esc tok) (nextCycle s rest) = .next t) :
    PortsInv t ∧ (t.event.isSome = true ↔ s.scan = .inFrame ∧ t.scan = .seek) := by
  obtain ⟨hs, e⟩ | ⟨hs, -, e⟩ | ⟨hs, -, e⟩ | ⟨hs, -, -, e⟩ | ⟨hs, u, b, -, -, -, e⟩ :=
    exec_decodeToken_cases s (nextCycle s rest) tok
  · cases e.symm.trans h
    simp [PortsInv, event_isSome_iff, hs]
  · cases e.symm.trans h
    simp [PortsInv, event_isSome_iff, hs]
  · cases e.symm.trans h
    simp [PortsInv, event_isSome_iff, hs]
  · cases e.symm.trans h
    simp [PortsInv, event_isSome_iff, hs]
  · obtain ⟨hports, hevent⟩ := deliver_event (s := handed s rest) hs rfl rfl (e.symm.trans h)
    exact ⟨hports, by simp [hevent, hs]⟩

/-- Settles O55: a cycle without a token shows nothing and keeps the scanner's flag, and a token presents its one event
exactly when it ends a frame (`exec_decodeToken_event`). -/
theorem eventExactlyWhenFrameEnds : Obligations.EventExactlyWhenFrameEnds := by
  unfold Obligations.EventExactlyWhenFrameEnds
  intro s t h
  obtain ⟨rest, rfl⟩ | ⟨c, rest, hin, hrst, rfl⟩ | ⟨c, rest, tok, -, -, -, hexec⟩ := step_cases_of_input h
  · refine ⟨.inl rfl, fun _ => ⟨fun hevent => ?_, fun ⟨hs, ht⟩ => absurd (hs.symm.trans ht) nofun⟩⟩
    simp [event_isSome_iff] at hevent
  · exact ⟨.inl rfl, fun hno => by simp [hno c (by simp [hin])] at hrst⟩
  · obtain ⟨hports, hevent⟩ := exec_decodeToken_event hexec
    exact ⟨hports, fun _ => hevent⟩

/-! ## The origin of a record-port event -/

/-- Only the beat of a good checksum puts an event on the record port, the event of the Verified Frame. -/
theorem deliver_out {u : Byte} {s t : State} {e : OutEvent} (hout : s.out = none) (h : deliver u s = .next t)
    (he : t.out = some e) :
    s.asm = .csum ∧ s.sum + u = 0xFF ∧
      ∃ frame, verifiedFrame s = some frame ∧ e = frameEvent s.params.schema frame := by
  obtain ⟨-, rfl⟩ | ⟨-, rfl⟩ | ⟨-, -, rfl⟩ | ⟨hasm, hgood, frame, hframe, rfl⟩ | ⟨-, -, rfl⟩ := deliver_cases h
  · simp [hout] at he
  · simp [hout] at he
  · simp [hout] at he
  · exact ⟨hasm, checksumGood_iff_add.1 hgood, frame, hframe, by simpa using he.symm⟩
  · simp [hout] at he

/-- The raw byte that delivers `u`, with or without a marker before it (30_encoding.md R75). -/
theorem rawByte_of_delivered {esc : Bool} {u b : Byte} (h : u = if esc then unescape b else b) :
    b = if esc then unescape u else u := by
  rw [h]
  cases esc with
  | true => exact (unescape_unescape b).symm
  | false => rfl

/-- Settles O56: of everything a cycle can do only a delivered byte writes the record port
(`exec_decodeToken_cases`), and it does so in the beat of a good checksum only (`deliver_out`). -/
theorem recordOnlyFromGoodChecksum : Obligations.RecordOnlyFromGoodChecksum := by
  unfold Obligations.RecordOnlyFromGoodChecksum
  intro s t e h he
  obtain ⟨rest, rfl⟩ | ⟨c, rest, -, -, rfl⟩ | ⟨c, rest, tok, hin, -, htok, hexec⟩ := step_cases_of_input h
  · simp at he
  · simp at he
  · obtain ⟨-, e'⟩ | ⟨-, -, e'⟩ | ⟨-, -, e'⟩ | ⟨-, -, -, e'⟩ | ⟨hs, u, b, rfl, hu, -, e'⟩ :=
      exec_decodeToken_cases s (nextCycle s rest) tok
    · cases e'.symm.trans hexec
      simp at he
    · cases e'.symm.trans hexec
      simp at he
    · cases e'.symm.trans hexec
      simp at he
    · cases e'.symm.trans hexec
      simp at he
    · obtain ⟨hasm, hsum, frame, hframe, hevent⟩ := deliver_out (s := handed s rest) rfl (e'.symm.trans hexec) he
      exact ⟨c, rest, u, frame, hin, by rw [htok, ← rawByte_of_delivered hu], hs, hasm, hsum, hframe, hevent⟩

end Sys2Proof.Machine
end

section
/-! PROOFS. The frames of the operations: the frame-level operations write the record port only (45_fixed_records.md),
and no operation stores a byte anywhere but at `wr` (20_memory.md R55). -/

namespace Sys2Proof

/-- The frame-level operations: a known shape, the default arm, or the empty frame (30_encoding.md R76). -/
theorem Instr.eq_of_selectedAt_frame {i : Instr} (h : i.selectedAt .frame = true) :
    (∃ v body, i = Variant.instr v body) ∨ (∃ tag payload, i = .unknown tag payload) ∨ i = .empty := by
  cases i with
  | skip | sof | eosIdle | escMark | escByte | plainByte | eosTrunc | lenHi | lenLo | collect | checkGood | checkBad =>
    cases h
  | modemStatus body => exact .inl ⟨.modemStatus, body, rfl⟩
  | atCmd body => exact .inl ⟨.atCmd, body, rfl⟩
  | atCmdQueued body => exact .inl ⟨.atCmdQueued, body, rfl⟩
  | atResp body => exact .inl ⟨.atResp, body, rfl⟩
  | remoteAtReq body => exact .inl ⟨.remoteAtReq, body, rfl⟩
  | remoteAtResp body => exact .inl ⟨.remoteAtResp, body, rfl⟩
  | txReq body => exact .inl ⟨.txReq, body, rfl⟩
  | txExplicit body => exact .inl ⟨.txExplicit, body, rfl⟩
  | txStatus body => exact .inl ⟨.txStatus, body, rfl⟩
  | rxPacket body => exact .inl ⟨.rxPacket, body, rfl⟩
  | rxExplicit body => exact .inl ⟨.rxExplicit, body, rfl⟩
  | rxIoSample body => exact .inl ⟨.rxIoSample, body, rfl⟩
  | rxSensor body => exact .inl ⟨.rxSensor, body, rfl⟩
  | rxNodeId body => exact .inl ⟨.rxNodeId, body, rfl⟩
  | unknown tag payload => exact .inr (.inl ⟨tag, payload, rfl⟩)
  | empty => exact .inr (.inr rfl)

end Sys2Proof

namespace Sys2Proof.Machine

theorem exec_frameLevel {i : Instr} (s : State) (h : isFrameLevel i = true) :
    ∃ e, exec i s = .next (emitOut s e) := by
  obtain ⟨v, body, rfl⟩ | ⟨tag, payload, rfl⟩ | rfl := Instr.eq_of_selectedAt_frame h
  · exact ⟨_, exec_instr v body s⟩
  · exact ⟨_, exec_unknown tag payload s⟩
  · exact ⟨_, exec_empty s⟩

/-- Settles O40: a record decoder is one `emit out` (`exec_instr`), and so are the default arm and the empty frame
(`exec_unknown`, `exec_empty`). -/
theorem frameLevelWritesRecordPortOnly : Obligations.FrameLevelWritesRecordPortOnly := by
  unfold Obligations.FrameLevelWritesRecordPortOnly
  exact fun i s h => exec_frameLevel s h

/-! ## What is stored -/

/-- The pins, the parameters, and every buffer byte but the one at `addr`, if a byte is stored there, are as before. -/
def StoresAtMost (addr : Option Nat) (s t : State) : Prop :=
  t.input = s.input ∧ t.params = s.params ∧ (addr = none → t.buf = s.buf) ∧
    ∀ a, addr ≠ some a → Memory.read t.buf a = Memory.read s.buf a

theorem StoresAtMost.of_buf_eq (addr : Option Nat) {s t : State} (hinput : t.input = s.input)
    (hparams : t.params = s.params) (hbuf : t.buf = s.buf) : StoresAtMost addr s t :=
  ⟨hinput, hparams, fun _ => hbuf, fun _ _ => by rw [hbuf]⟩

theorem collectedState_storesAtMost (u : Byte) (s : State) :
    StoresAtMost (some s.wr.toNat) s (collectedState u s) :=
  ⟨rfl, rfl, nofun, fun _ ha => Memory.read_write_other s.buf u fun h => ha (congrArg some h.symm)⟩

/-- A delivered byte is stored at `wr` if the assembler collects, and nothing is stored if it does not. -/
theorem deliver_storesAtMost {u : Byte} {s t : State} (h : deliver u s = .next t) :
    StoresAtMost (if s.asm = .payload then some s.wr.toNat else none) s t := by
  obtain ⟨-, rfl⟩ | ⟨-, rfl⟩ | ⟨hasm, -, rfl⟩ | ⟨-, -, frame, -, rfl⟩ | ⟨-, -, rfl⟩ := deliver_cases h
  · exact .of_buf_eq _ rfl rfl rfl
  · exact .of_buf_eq _ rfl rfl rfl
  · rw [if_pos hasm]
    exact collectedState_storesAtMost u s
  · exact .of_buf_eq _ rfl rfl rfl
  · exact .of_buf_eq _ rfl rfl rfl

theorem execCollect_next {u : Byte} {s t : State} (h : exec (.collect u) s = .next t) : t = collectedState u s := by
  by_cases hwr : s.wr.toNat < s.params.bufBytes
  · exact (eq_of_exec_next h (exec_collect u hwr)).symm
  · cases ((execCollect_eq u s).trans (if_neg hwr)).symm.trans h

theorem execCheckGood_next {u : Byte} {s t : State} (h : exec (.checkGood u) s = .next t) :
    ∃ e, t = resync (emitOut s e) := by
  cases hframe : verifiedFrame s with
  | none => cases (execCheckGood_of_none u hframe).symm.trans h
  | some frame => exact ⟨_, (eq_of_exec_next h (exec_checkGood_of_frame u hframe)).symm⟩

theorem exec_frameLevel_storesAtMost {i : Instr} {s t : State} (addr : Option Nat) (h : exec i s = .next t)
    (hi : isFrameLevel i = true) : StoresAtMost addr s t := by
  obtain ⟨e, he⟩ := exec_frameLevel s hi
  cases he.symm.trans h
  exact .of_buf_eq addr rfl rfl rfl

/-- What each operation stores: one byte at `wr`, by `COLLECT` itself or by a raw byte delivered to it, or nothing. -/
theorem exec_storesAtMost {i : Instr} {s t : State} (h : exec i s = .next t) : StoresAtMost (storeAddr i s) s t := by
  cases i with
  | skip | sof | eosIdle | escMark | eosTrunc | lenHi | lenLo | checkBad =>
    cases h
    exact .of_buf_eq _ rfl rfl rfl
  | escByte b => exact deliver_storesAtMost (s := { s with esc := false }) h
  | plainByte b => exact deliver_storesAtMost (s := { s with esc := false }) h
  | collect u =>
    rw [execCollect_next h]
    exact collectedState_storesAtMost u s
  | checkGood u =>
    obtain ⟨e, rfl⟩ := execCheckGood_next h
    exact .of_buf_eq _ rfl rfl rfl
  | modemStatus | atCmd | atCmdQueued | atResp | remoteAtReq | remoteAtResp | txReq | txExplicit | txStatus | rxPacket
  | rxExplicit | rxIoSample | rxSensor | rxNodeId | unknown | empty =>
    exact exec_frameLevel_storesAtMost _ h rfl

/-- Settles O41: only a byte that reaches `COLLECT` is stored, at `wr` (`exec_storesAtMost`). -/
theorem onlyCollectStores : Obligations.OnlyCollectStores := by
  unfold Obligations.OnlyCollectStores
  exact fun _ _ _ h => exec_storesAtMost h

end Sys2Proof.Machine
end

section
/-! PROOFS. The invariant of the block (10_state.md R32, R36): it holds at reset, every step keeps it, and from it every
cycle answers (60_exceptions.md R224) and every frame comes to its end. -/

namespace Sys2Proof.Machine

/-! ## States that meet the invariant -/

theorem Inv.of_idle {s : State} (hidle : Idle s) (hbuf : BufInv s) (hports : PortsInv s) : Inv s :=
  ⟨fun _ => hidle.2, fun hscan => absurd (hidle.1.symm.trans hscan) nofun, hbuf, hports⟩

theorem Inv.of_inFrame {s : State} (hscan : s.scan = .inFrame) (hframe : FrameInv s) (hbuf : BufInv s)
    (hports : PortsInv s) : Inv s :=
  ⟨fun hseek => absurd (hscan.symm.trans hseek) nofun, fun _ => hframe, hbuf, hports⟩

theorem resync_idle (s : State) : Idle (resync s) := ⟨rfl, rfl, rfl, rfl, rfl, rfl, rfl⟩

theorem bufInv_nil {s : State} (h : s.buf = []) : BufInv s := by
  rw [BufInv, h]
  exact ⟨rfl, rfl⟩

/-- Settles O52: the reset state is idle (`State.reset_idle`), with no byte in the buffer and both ports empty. -/
theorem invariantAtReset : Obligations.InvariantAtReset := by
  unfold Obligations.InvariantAtReset
  exact .of_idle State.reset_idle (bufInv_nil rfl) (.inl State.reset_out)

theorem resetCycle_inv (s : State) (rest : List Cycle) : Inv (resetCycle s rest) :=
  .of_idle (resetCycle_idle s rest) (bufInv_nil rfl) (.inl rfl)

/-- A cycle without a token keeps the invariant: no register changes, and both ports are emptied. -/
theorem nextCycle_inv {s : State} (rest : List Cycle) (h : Inv s) : Inv (nextCycle s rest) := by
  obtain ⟨hseek, hframe, hbuf, -⟩ := h
  exact ⟨hseek, hframe, hbuf, .inl rfl⟩

theorem startFrame_inv {s : State} (hbuf : BufInv s) (hports : PortsInv s) : Inv (startFrame s) :=
  .of_inFrame rfl ⟨fun _ => ⟨rfl, rfl, rfl, rfl⟩, nofun, nofun, nofun⟩ hbuf hports

/-! ## The assembler's operations -/

/-- The low byte of the length is still 0 behind `LENHI` (R36). -/
theorem lenHiState_frameInv {s : State} (u : Byte) (h : LenHiInv s) : FrameInv (lenHiState u s) := by
  obtain ⟨-, hrem, hsum, hwr⟩ := h
  refine ⟨nofun, fun _ => ⟨?_, hrem, hsum, hwr⟩, nofun, nofun⟩
  apply BitVec.eq_of_toNat_eq
  rw [BitVec.toNat_setWidth]
  exact (congrArg (· % 2 ^ 8) (setWidth_shiftLeft_toNat u)).trans (Nat.mul_mod_left u.toNat 256)

theorem collected_of_wr_zero {s : State} (h : s.wr = 0) : collected s = some [] := by
  rw [collected, h]
  rfl

/-- Behind `LENLO` nothing is collected yet, and the whole length is still to come (R36). -/
theorem lenLoState_frameInv {s : State} (u : Byte) (h : LenLoInv s) : FrameInv (lenLoState u s) := by
  obtain ⟨-, -, hsum, hwr⟩ := h
  have hcollected : (collected (lenLoState u s)).map sumBytes = some (lenLoState u s).sum := by
    rw [collected_of_wr_zero (s := lenLoState u s) hwr, lenLoState_sum, hsum]
    rfl
  by_cases hzero : joinedLength s u = 0
  · have hasm : (lenLoState u s).asm = .csum := if_pos hzero
    exact ⟨by simp [hasm], by simp [hasm], by simp [hasm], fun _ => ⟨hzero, hwr.trans hzero.symm, hcollected⟩⟩
  · have hasm : (lenLoState u s).asm = .payload := if_neg hzero
    have hpos : 1 ≤ (joinedLength s u).toNat := Nat.one_le_iff_ne_zero.2 (mt toNat_eq_zero_iff.1 hzero)
    have hlen : (lenLoState u s).wr.toNat + (joinedLength s u).toNat = (joinedLength s u).toNat := by
      rw [show (lenLoState u s).wr = 0 from hwr]
      exact Nat.zero_add _
    exact ⟨by simp [hasm], by simp [hasm], fun _ => ⟨hpos, hlen, hcollected⟩, by simp [hasm]⟩

/-- `COLLECT` appends its byte to the bytes collected and to their sum. -/
theorem collectedState_sum {s : State} (u : Byte) (hwr : s.wr.toNat + 1 < 65536)
    (h : (collected s).map sumBytes = some s.sum) :
    (collected (collectedState u s)).map sumBytes = some (collectedState u s).sum := by
  obtain ⟨bs, hbs, hsum⟩ := Option.map_eq_some_iff.1 h
  have hlen : s.wr.toNat = bs.length := (Memory.readBytes_length hbs).symm
  have hrun : collected (collectedState u s) = some (bs ++ [u]) := by
    rw [collected, show (collectedState u s).wr.toNat = bs.length + 1 from (toNat_add_one hwr).trans (by rw [hlen])]
    exact collectedState_readBytes u hlen (hlen ▸ hbs)
  rw [hrun, Option.map_some, sumBytes_append_byte, hsum]
  rfl

/-- `COLLECT` keeps the count of what is still to come, and reaches `CSUM` with the whole length collected (R36). -/
theorem collectedState_frameInv {s : State} (u : Byte) (h : PayloadInv s) : FrameInv (collectedState u s) := by
  obtain ⟨hrem, hlen, hsum⟩ := h
  have hlt := s.len.isLt
  have hsum' := collectedState_sum u (by omega) hsum
  have hwr' : (s.wr + 1).toNat = s.wr.toNat + 1 := toNat_add_one (by omega)
  have hrem' : (s.rem - 1).toNat = s.rem.toNat - 1 := toNat_sub_one hrem
  by_cases hzero : s.rem - 1 = 0
  · have hasm : (collectedState u s).asm = .csum := if_pos hzero
    have hwr : s.wr + 1 = s.len := BitVec.eq_of_toNat_eq (by rw [toNat_eq_zero_iff.2 hzero] at hrem'; omega)
    exact ⟨by simp [hasm], by simp [hasm], by simp [hasm], fun _ => ⟨hzero, hwr, hsum'⟩⟩
  · have hasm : (collectedState u s).asm = .payload := if_neg hzero
    have hpos : 1 ≤ (s.rem - 1).toNat := Nat.one_le_iff_ne_zero.2 (mt toNat_eq_zero_iff.1 hzero)
    have hlen' : (s.wr + 1).toNat + (s.rem - 1).toNat = s.len.toNat := by omega
    exact ⟨by simp [hasm], by simp [hasm], fun _ => ⟨hpos, hlen', hsum'⟩, by simp [hasm]⟩

theorem collectedState_bufInv {s : State} (u : Byte) (hwr : s.wr.toNat < s.params.bufBytes) (h : BufInv s) :
    BufInv (collectedState u s) :=
  ⟨Memory.wf_write s.wr.toNat u h.1, Memory.below_write u hwr h.2⟩

/-- A delivered byte keeps the invariant. -/
theorem deliver_inv {u : Byte} {s t : State} (hscan : s.scan = .inFrame) (hframe : FrameInv s) (hbuf : BufInv s)
    (hout : s.out = none) (hdiag : s.diag = none) (h : deliver u s = .next t) : Inv t := by
  obtain ⟨hports, -⟩ := deliver_event hscan hout hdiag h
  obtain ⟨hlenHi, hlenLo, hpayload, -⟩ := hframe
  obtain ⟨hasm, rfl⟩ | ⟨hasm, rfl⟩ | ⟨hasm, hwr, rfl⟩ | ⟨-, -, frame, -, rfl⟩ | ⟨-, -, rfl⟩ := deliver_cases h
  · exact .of_inFrame hscan (lenHiState_frameInv u (hlenHi hasm)) hbuf hports
  · exact .of_inFrame hscan (lenLoState_frameInv u (hlenLo hasm)) hbuf hports
  · exact .of_inFrame hscan (collectedState_frameInv u (hpayload hasm)) (collectedState_bufInv u hwr hbuf) hports
  · exact .of_idle (resync_idle _) hbuf hports
  · exact .of_idle (resync_idle _) hbuf hports

/-- Settles O53: of the six things a cycle can do (`step_cases`), five leave the block idle, in a fresh frame, or with
its registers and buffer as they were, and the sixth delivers a byte (`deliver_inv`). -/
theorem stepKeepsInvariant : Obligations.StepKeepsInvariant := by
  unfold Obligations.StepKeepsInvariant
  intro s t hinv h
  obtain ⟨hseek, hframe, hbuf, hports⟩ := hinv
  obtain ⟨r, rfl⟩ | ⟨r, rfl⟩ | ⟨r, -, rfl⟩ | ⟨r, -, rfl⟩ | ⟨r, hs, -, rfl⟩ | ⟨r, u, hs, hdeliver⟩ := step_cases h
  · exact nextCycle_inv r ⟨hseek, hframe, hbuf, hports⟩
  · exact resetCycle_inv s r
  · exact startFrame_inv hbuf (.inl rfl)
  · exact .of_idle (resync_idle _) hbuf (.inl rfl)
  · exact .of_inFrame hs (hframe hs) hbuf (.inl rfl)
  · exact deliver_inv (s := handed s r) hs (hframe hs) hbuf rfl rfl hdeliver

/-! ## Every cycle answers -/

/-- In `CSUM` the Verified Frame is what was collected, so all its bytes were written. -/
theorem CsumInv.verifiedFrame_eq {s : State} (h : CsumInv s) : verifiedFrame s = collected s := by
  obtain ⟨-, hwr, -⟩ := h
  rw [verifiedFrame, collected, hwr]

theorem CsumInv.exists_verifiedFrame {s : State} (h : CsumInv s) : ∃ frame, verifiedFrame s = some frame := by
  have hverified := h.verifiedFrame_eq
  obtain ⟨-, -, hsum⟩ := h
  obtain ⟨frame, hframe, -⟩ := Option.map_eq_some_iff.1 hsum
  exact ⟨frame, hverified.trans hframe⟩

/-- A byte that is still to come has an address in a buffer of 65535 bytes. -/
theorem PayloadInv.wr_lt {s : State} (h : PayloadInv s) : s.wr.toNat < 65535 := by
  obtain ⟨hrem, hlen, -⟩ := h
  have hlt := s.len.isLt
  omega

theorem deliver_answers {s : State} (u : Byte) (hframe : FrameInv s) (hroom : 65535 ≤ s.params.bufBytes) :
    ∃ t, deliver u s = .next t := by
  obtain ⟨-, -, hpayload, hcsum⟩ := hframe
  cases hasm : s.asm with
  | lenHi => exact ⟨_, deliver_of_lenHi hasm⟩
  | lenLo => exact ⟨_, deliver_of_lenLo hasm⟩
  | payload => exact ⟨_, deliver_of_payload hasm (Nat.lt_of_lt_of_le (PayloadInv.wr_lt (hpayload hasm)) hroom)⟩
  | csum =>
    by_cases hsum : s.sum + u = 0xFF
    · obtain ⟨frame, hframe⟩ := CsumInv.exists_verifiedFrame (hcsum hasm)
      exact ⟨_, deliver_of_csum_good hasm hsum hframe⟩
    · exact ⟨_, deliver_of_csum_bad hasm hsum⟩

/-! ## Two blocks that differ in stale bytes only -/

theorem AgreeBelowWr.refl (s : State) : AgreeBelowWr s s := ⟨rfl, fun _ _ => rfl⟩

theorem AgreeBelowWr.exists_buf {s t : State} (h : AgreeBelowWr s t) :
    ∃ m, t = { s with buf := m } ∧ ∀ a, a < s.wr.toNat → Memory.read m a = Memory.read s.buf a :=
  ⟨t.buf, h⟩

/-- Outside the buffer the two blocks are equal. -/
theorem AgreeBelowWr.registers {s t : State} (h : AgreeBelowWr s t) :
    t.scan = s.scan ∧ t.esc = s.esc ∧ t.asm = s.asm ∧ t.sum = s.sum ∧ t.input = s.input ∧ t.params = s.params := by
  obtain ⟨m, rfl, -⟩ := h.exists_buf
  exact ⟨rfl, rfl, rfl, rfl, rfl, rfl⟩

/-- An update that neither reads nor writes the buffer, and moves `wr` nowhere or back to 0. -/
def BufferBlind (f : State → State) : Prop :=
  ∀ s : State, (∀ m, f { s with buf := m } = { f s with buf := m }) ∧ ((f s).wr = s.wr ∨ (f s).wr = 0)

theorem AgreeBelowWr.map {f : State → State} (hf : BufferBlind f) {s t : State} (h : AgreeBelowWr s t) :
    AgreeBelowWr (f s) (f t) := by
  obtain ⟨m, rfl, hread⟩ := h.exists_buf
  obtain ⟨hblind, hwr⟩ := hf s
  have hbuf : (f s).buf = s.buf := by simpa using congrArg State.buf (hblind s.buf)
  rw [hblind m]
  refine ⟨rfl, fun a ha => (hread a ?_).trans (by rw [hbuf])⟩
  obtain hwr | hwr := hwr
  · rwa [hwr] at ha
  · rw [hwr] at ha
    exact absurd ha (Nat.not_lt_zero a)

theorem nextCycle_blind (rest : List Cycle) : BufferBlind (nextCycle · rest) := fun _ => ⟨fun _ => rfl, .inl rfl⟩

/-- A token either is an update that does not look at the buffer, or delivers a byte in frame. -/
theorem exec_decodeToken_forms (scan : Scan) (esc : Bool) (tok : Token) :
    (∃ f : State → State, (∀ s, exec (decodeToken scan esc tok) s = .next (f s)) ∧ BufferBlind f) ∨
    (scan = .inFrame ∧ ∃ u, ∀ s, exec (decodeToken scan esc tok) s = deliver u { s with esc := false }) := by
  cases scan with
  | seek =>
    cases tok with
    | eos => exact .inl ⟨id, fun _ => rfl, fun _ => ⟨fun _ => rfl, .inl rfl⟩⟩
    | byte b =>
      by_cases hb : b = Config.delim
      · rw [hb, decodeToken_seek_delim]
        exact .inl ⟨startFrame, exec_sof, fun _ => ⟨fun _ => rfl, .inr rfl⟩⟩
      · rw [decodeToken_seek_byte esc hb]
        exact .inl ⟨id, exec_skip b, fun _ => ⟨fun _ => rfl, .inl rfl⟩⟩
  | inFrame =>
    cases tok with
    | eos => exact .inl ⟨fun s => resync (emitDiag s .truncated), exec_eosTrunc, fun _ => ⟨fun _ => rfl, .inr rfl⟩⟩
    | byte b =>
      cases esc with
      | true => exact .inr ⟨rfl, unescape b, exec_escByte b⟩
      | false =>
        by_cases hb : b = Config.esc
        · rw [hb, decodeToken_inFrame_esc]
          exact .inl ⟨fun s => { s with esc := true }, exec_escMark, fun _ => ⟨fun _ => rfl, .inl rfl⟩⟩
        · rw [decodeToken_inFrame_byte hb]
          exact .inr ⟨rfl, b, exec_plainByte b⟩

/-- A cycle either is an update that answers whatever the buffer holds, or delivers a byte in frame; which of the two,
and which byte, is the same for every block that agrees below `wr`. -/
theorem step_updates_or_delivers (s : State) :
    (∃ f : State → State, ∀ t, AgreeBelowWr s t → step t = .next (f t) ∧ AgreeBelowWr (f s) (f t)) ∨
    (s.scan = .inFrame ∧ ∃ u rest, ∀ t, AgreeBelowWr s t → step t = deliver u (handed t rest)) := by
  have hinput {t : State} (h : AgreeBelowWr s t) : t.input = s.input := by
    obtain ⟨-, -, -, -, hinput, -⟩ := h.registers
    exact hinput
  cases hin : s.input with
  | nil => exact .inl ⟨_, fun t h => ⟨step_nil ((hinput h).trans hin), h.map (nextCycle_blind [])⟩⟩
  | cons c rest =>
    cases hrst : c.rst with
    | true =>
      refine .inl ⟨(resetCycle · rest), fun t h => ⟨step_rst ((hinput h).trans hin) hrst, ?_⟩⟩
      rw [h.1]
      exact .refl _
    | false =>
      cases htok : cycleToken c with
      | none => exact .inl ⟨_, fun t h => ⟨step_idle ((hinput h).trans hin) hrst htok, h.map (nextCycle_blind rest)⟩⟩
      | some tok =>
        have hstep {t : State} (h : AgreeBelowWr s t) :
            step t = exec (decodeToken s.scan s.esc tok) (nextCycle t rest) := by
          obtain ⟨hscan, hesc, -⟩ := h.registers
          rw [step_token ((hinput h).trans hin) hrst htok, hscan, hesc]
        obtain ⟨f, hf, hblind⟩ | ⟨hscan, u, hu⟩ := exec_decodeToken_forms s.scan s.esc tok
        · exact .inl ⟨fun t => f (nextCycle t rest), fun t h =>
            ⟨(hstep h).trans (hf _), (h.map (nextCycle_blind rest)).map hblind⟩⟩
        · exact .inr ⟨hscan, u, rest, fun t h => (hstep h).trans (hu _)⟩

/-- Settles O54: a cycle either answers at once (`step_updates_or_delivers`) or delivers a byte, which answers since the
in-frame invariants put `wr` in the buffer and every byte of the Verified Frame in it (`deliver_answers`). -/
theorem nothingIsFatal : Obligations.NothingIsFatal := by
  unfold Obligations.NothingIsFatal
  rintro s ⟨-, hframe, -, -⟩ hroom
  obtain ⟨f, hf⟩ | ⟨hscan, u, rest, hdeliver⟩ := step_updates_or_delivers s
  · exact ⟨f s, (hf s (.refl s)).1⟩
  · rw [hdeliver s (.refl s)]
    exact deliver_answers (s := handed s rest) u (hframe hscan) hroom

/-- The byte that `COLLECT` stores is the same in both blocks. -/
theorem AgreeBelowWr.collectedState {s t : State} (u : Byte) (h : AgreeBelowWr s t) :
    AgreeBelowWr (collectedState u s) (collectedState u t) := by
  obtain ⟨m, rfl, hread⟩ := h.exists_buf
  refine ⟨rfl, fun a ha => ?_⟩
  have hlt : a < s.wr.toNat + 1 :=
    Nat.lt_of_lt_of_le ha ((BitVec.toNat_add s.wr 1).trans_le (Nat.mod_le _ _))
  change (Memory.write m s.wr.toNat u).read a = (Memory.write s.buf s.wr.toNat u).read a
  rw [Memory.read_write, Memory.read_write]
  split_ifs with heq
  · rfl
  · exact hread a (by omega)

theorem AgreeBelowWr.verifiedFrame {s t : State} (h : AgreeBelowWr s t) (hwr : s.wr = s.len) :
    verifiedFrame t = verifiedFrame s := by
  obtain ⟨m, rfl, hread⟩ := h.exists_buf
  exact Memory.readBytes_congr fun b _ hb => hread b (by rw [hwr]; simpa using hb)

/-- A delivered byte does the same in both blocks: `COLLECT` writes at `wr`, and the Verified Frame ends there. -/
theorem AgreeBelowWr.deliver {u : Byte} {s s' t : State} (h : AgreeBelowWr s t) (hframe : FrameInv s)
    (hdeliver : deliver u s = .next s') : ∃ t', Machine.deliver u t = .next t' ∧ AgreeBelowWr s' t' := by
  obtain ⟨-, -, hasm, hsum, -, hparams⟩ := h.registers
  obtain ⟨-, -, -, hcsum⟩ := hframe
  obtain ⟨hs, rfl⟩ | ⟨hs, rfl⟩ | ⟨hs, hwr, rfl⟩ | ⟨hs, hgood, frame, hread, rfl⟩ | ⟨hs, hbad, rfl⟩ :=
    deliver_cases hdeliver
  · exact ⟨_, deliver_of_lenHi (hasm.trans hs), h.map (f := lenHiState u) fun _ => ⟨fun _ => rfl, .inl rfl⟩⟩
  · exact ⟨_, deliver_of_lenLo (hasm.trans hs), h.map (f := lenLoState u) fun _ => ⟨fun _ => rfl, .inl rfl⟩⟩
  · exact ⟨_, deliver_of_payload (hasm.trans hs) (by rw [h.1]; exact hwr), h.collectedState u⟩
  · obtain ⟨-, hend, -⟩ := hcsum hs
    refine ⟨_, deliver_of_csum_good (hasm.trans hs) ?_ ((h.verifiedFrame hend).trans hread), ?_⟩
    · rw [hsum]
      exact checksumGood_iff_add.1 hgood
    · rw [hparams]
      exact h.map (f := fun s => resync (emitOut s _)) fun _ => ⟨fun _ => rfl, .inr rfl⟩
  · refine ⟨_, deliver_of_csum_bad (hasm.trans hs) ?_, ?_⟩
    · rw [hsum]
      exact mt checksumGood_iff_add.2 (by simp [hbad])
    · exact h.map (f := fun s => resync (emitDiag s .checksumFailed)) fun _ => ⟨fun _ => rfl, .inr rfl⟩

/-- Settles O58: only a delivered byte looks at the buffer (`step_updates_or_delivers`), and it looks below `wr` only
(`AgreeBelowWr.deliver`). -/
theorem staleBytesNeverShow : Obligations.StaleBytesNeverShow := by
  unfold Obligations.StaleBytesNeverShow
  rintro s s' t ⟨-, hframe, -, -⟩ hagree h
  obtain ⟨f, hf⟩ | ⟨hscan, u, rest, hdeliver⟩ := step_updates_or_delivers s
  · cases (hf s (.refl s)).1.symm.trans h
    exact ⟨f t, hf t hagree⟩
  · rw [hdeliver s (.refl s)] at h
    rw [hdeliver t hagree]
    have hhanded : AgreeBelowWr (handed s rest) (handed t rest) :=
      hagree.map (f := (handed · rest)) fun _ => ⟨fun _ => rfl, .inl rfl⟩
    exact hhanded.deliver (hframe hscan) h

/-! ## The distance to the end of a frame -/

theorem remaining_eq_zero_iff {s : State} : remaining s = 0 ↔ s.scan = .seek := by
  unfold remaining
  cases s.scan <;> cases s.asm <;> simp

/-- At most two length bytes, 65535 content bytes and a checksum byte are still to come. -/
theorem remaining_le (s : State) : remaining s ≤ 65535 + 3 := by
  have hrem := s.rem.isLt
  unfold remaining
  split <;> omega

section Distance
variable {s : State}

theorem remaining_of_lenHi (hscan : s.scan = .inFrame) (hasm : s.asm = .lenHi) : remaining s = 65535 + 3 := by
  simp [remaining, hscan, hasm]

theorem remaining_of_lenLo (hscan : s.scan = .inFrame) (hasm : s.asm = .lenLo) : remaining s = 65535 + 2 := by
  simp [remaining, hscan, hasm]

theorem remaining_of_payload (hscan : s.scan = .inFrame) (hasm : s.asm = .payload) :
    remaining s = s.rem.toNat + 1 := by
  simp [remaining, hscan, hasm]

theorem remaining_of_csum (hscan : s.scan = .inFrame) (hasm : s.asm = .csum) : remaining s = 1 := by
  simp [remaining, hscan, hasm]

/-- In a state that collects next, or checks because nothing is left, at most what is left and one byte are to come. -/
theorem remaining_le_rem {p : Prop} [Decidable p] (hscan : s.scan = .inFrame)
    (hasm : s.asm = if p then .csum else .payload) : remaining s ≤ s.rem.toNat + 1 := by
  split_ifs at hasm
  · rw [remaining_of_csum hscan hasm]
    omega
  · rw [remaining_of_payload hscan hasm]

/-- Each delivered byte brings the end of the frame nearer. -/
theorem deliver_remaining_lt {u : Byte} {t : State} (hscan : s.scan = .inFrame) (hframe : FrameInv s)
    (h : deliver u s = .next t) : remaining t < remaining s := by
  obtain ⟨-, -, hpayload, -⟩ := hframe
  obtain ⟨hasm, rfl⟩ | ⟨hasm, rfl⟩ | ⟨hasm, -, rfl⟩ | ⟨hasm, -, frame, -, rfl⟩ | ⟨hasm, -, rfl⟩ := deliver_cases h
  · rw [remaining_of_lenHi hscan hasm, remaining_of_lenLo (s := lenHiState u s) hscan rfl]
    omega
  · have hle : remaining (lenLoState u s) ≤ (joinedLength s u).toNat + 1 := remaining_le_rem hscan rfl
    have hlt := (joinedLength s u).isLt
    rw [remaining_of_lenLo hscan hasm]
    omega
  · obtain ⟨hrem, -, -⟩ := hpayload hasm
    have hle : remaining (collectedState u s) ≤ (s.rem - 1).toNat + 1 := remaining_le_rem hscan rfl
    rw [toNat_sub_one hrem] at hle
    rw [remaining_of_payload hscan hasm]
    omega
  · rw [remaining_of_csum hscan hasm, remaining_eq_zero_iff.2 (resync_scan _)]
    exact Nat.one_pos
  · rw [remaining_of_csum hscan hasm, remaining_eq_zero_iff.2 (resync_scan _)]
    exact Nat.one_pos

end Distance

theorem deliver_esc {u : Byte} {s t : State} (hesc : s.esc = false) (h : deliver u s = .next t) : t.esc = false := by
  obtain ⟨-, rfl⟩ | ⟨-, rfl⟩ | ⟨-, -, rfl⟩ | ⟨-, -, frame, -, rfl⟩ | ⟨-, -, rfl⟩ := deliver_cases h
  · exact hesc
  · exact hesc
  · exact hesc
  · rfl
  · rfl

/-- Settles O59: a raw byte in frame is a marker, which moves nothing but `esc` (`step_mark`), or is delivered
(`step_plain`, `step_afterMark`), which brings the end nearer (`deliver_remaining_lt`). -/
theorem frameEndsInTime : Obligations.FrameEndsInTime := by
  unfold Obligations.FrameEndsInTime
  rintro s t b rest ⟨-, hframe, -, -⟩ hscan hin h
  have hdelivered {u : Byte} (hdeliver : deliver u (handed s rest) = .next t) :
      remaining t < remaining s ∧ t.esc = false ∧ (remaining t = 0 ↔ t.scan = .seek) :=
    ⟨deliver_remaining_lt (s := handed s rest) hscan (hframe hscan) hdeliver, deliver_esc rfl hdeliver,
      remaining_eq_zero_iff⟩
  refine ⟨remaining_le s, ?_⟩
  cases hesc : s.esc with
  | true => exact .inr (hdelivered ((step_afterMark hscan hesc hin).symm.trans h))
  | false =>
    by_cases hb : b = Config.esc
    · subst hb
      cases (step_mark hscan hesc hin).symm.trans h
      exact .inl ⟨rfl, rfl, rfl, rfl⟩
    · exact .inr (hdelivered ((step_plain hscan hesc hb hin).symm.trans h))

end Sys2Proof.Machine
end

section
/-! PROOFS. The decoder and the encoder (30_encoding.md sections 1 and 3): each inverts the other, place by place; and
the decoded operation is the one that runs (40_pipeline.md R105, 44_dispatcher.md R150). -/

namespace Sys2Proof

/-! ## The decoder at the dispatcher, and two operand limits -/

theorem decode_frame_bytes {content : List Byte} (h : content.length ≤ maxContent) :
    decode .frame (.bytes content) = .ok (decodeFrame content) := if_pos h

theorem decode_frame_cons (tag : Byte) {body : List Byte} (h : bodyFits body = true) :
    decode .frame (.bytes (tag :: body)) = .ok (decodeFrame (tag :: body)) :=
  decode_frame_bytes (Laws.CodeFits.of_bodyFits h)

theorem ne_delim_of_wellFormed {b : Byte} (h : (Instr.skip b).wellFormed = true) : b ≠ Config.delim := bne_iff_ne.1 h

theorem ne_esc_of_wellFormed {b : Byte} (h : (Instr.plainByte b).wellFormed = true) : b ≠ Config.esc := bne_iff_ne.1 h

/-! ## Decode inverts encode -/

theorem decode_encode_stream {i : Instr} {scan : Scan} {esc : Bool} (hwf : i.wellFormed = true)
    (hsel : i.selectedAt (.stream scan esc) = true) : decode (.stream scan esc) (encode i) = .ok i := by
  cases scan with
  | seek =>
    cases i with
    | skip b => exact congrArg Except.ok (decodeToken_seek_byte esc (ne_delim_of_wellFormed hwf))
    | sof => rfl
    | eosIdle => rfl
    | _ => cases hsel
  | inFrame =>
    cases esc with
    | false =>
      cases i with
      | escMark => rfl
      | plainByte b => exact congrArg Except.ok (decodeToken_inFrame_byte (ne_esc_of_wellFormed hwf))
      | eosTrunc => rfl
      | _ => cases hsel
    | true =>
      cases i with
      | escByte b => rfl
      | eosTrunc => rfl
      | _ => cases hsel

theorem decode_encode_assembler {i : Instr} {asm : Asm} {sum : Byte}
    (hsel : i.selectedAt (.assembler asm sum) = true) : decode (.assembler asm sum) (encode i) = .ok i := by
  cases asm with
  | lenHi =>
    cases i with
    | lenHi u => rfl
    | _ => cases hsel
  | lenLo =>
    cases i with
    | lenLo u => rfl
    | _ => cases hsel
  | payload =>
    cases i with
    | collect u => rfl
    | _ => cases hsel
  | csum =>
    cases i with
    | checkGood u => exact congrArg Except.ok (decodeDelivered_csum_good hsel)
    | checkBad u =>
      have hbad : ¬ checksumGood sum u = true := by simpa [Instr.selectedAt] using hsel
      exact congrArg Except.ok (decodeDelivered_csum_bad hbad)
    | _ => cases hsel

theorem decode_encode_frame {i : Instr} (hwf : i.wellFormed = true) (hsel : i.selectedAt .frame = true) :
    decode .frame (encode i) = .ok i := by
  obtain ⟨v, body, rfl⟩ | ⟨tag, payload, rfl⟩ | rfl := Instr.eq_of_selectedAt_frame hsel
  · rw [wellFormed_instr] at hwf
    rw [encode_instr, decode_frame_cons _ hwf, decodeFrame_tag]
  · obtain ⟨htag, hbody⟩ := Bool.and_eq_true_iff.1 hwf
    rw [encode, decode_frame_cons tag hbody,
      decodeFrame_unknown payload (Option.isNone_iff_eq_none.1 htag)]
  · rfl

/-- Settles O1, place by place: the stream map and the assembler's map by their rows, the tag map by its lookup of each
shape's own tag (`decodeFrame_tag`). -/
theorem decodeInvertsEncode : Obligations.DecodeInvertsEncode := by
  unfold Obligations.DecodeInvertsEncode
  intro i site hwf hsel
  cases site with
  | stream scan esc => exact decode_encode_stream hwf hsel
  | assembler asm sum => exact decode_encode_assembler hsel
  | frame => exact decode_encode_frame hwf hsel

/-! ## Encode inverts decode -/

/-- The code a token arrives as. -/
def Token.code : Token → Code
  | .byte b => .bytes [b]
  | .eos    => .eos

/-- An operation that a place selects, well-formed and encoded by `code`. -/
def Instr.MetAs (i : Instr) (site : Site) (code : Code) : Prop :=
  i.wellFormed = true ∧ i.selectedAt site = true ∧ encode i = code

theorem decodeToken_metAs (scan : Scan) (esc : Bool) (t : Token) :
    (decodeToken scan esc t).MetAs (.stream scan esc) t.code := by
  cases scan with
  | seek =>
    cases t with
    | eos => exact ⟨rfl, rfl, rfl⟩
    | byte b =>
      by_cases hb : b = Config.delim
      · subst hb
        exact ⟨rfl, rfl, rfl⟩
      · rw [decodeToken_seek_byte esc hb]
        exact ⟨bne_iff_ne.2 hb, rfl, rfl⟩
  | inFrame =>
    cases t with
    | eos => exact ⟨rfl, rfl, rfl⟩
    | byte b =>
      cases esc with
      | true => exact ⟨rfl, rfl, rfl⟩
      | false =>
        by_cases hb : b = Config.esc
        · subst hb
          exact ⟨rfl, rfl, rfl⟩
        · rw [decodeToken_inFrame_byte hb]
          exact ⟨bne_iff_ne.2 hb, rfl, rfl⟩

theorem decodeDelivered_metAs (asm : Asm) (sum u : Byte) :
    (decodeDelivered asm sum u).MetAs (.assembler asm sum) (.bytes [u]) := by
  cases asm with
  | lenHi => exact ⟨rfl, rfl, rfl⟩
  | lenLo => exact ⟨rfl, rfl, rfl⟩
  | payload => exact ⟨rfl, rfl, rfl⟩
  | csum =>
    by_cases hgood : checksumGood sum u = true
    · rw [decodeDelivered_csum_good hgood]
      exact ⟨rfl, hgood, rfl⟩
    · rw [decodeDelivered_csum_bad hgood]
      exact ⟨rfl, by simp [Instr.selectedAt, hgood], rfl⟩

theorem decodeFrame_metAs {content : List Byte} (h : content.length ≤ maxContent) :
    (decodeFrame content).MetAs .frame (.bytes content) := by
  cases content with
  | nil => exact ⟨rfl, rfl, rfl⟩
  | cons tag body =>
    have hbody : bodyFits body = true := decide_eq_true h
    cases hv : Variant.ofTag tag with
    | none =>
      rw [decodeFrame_unknown body hv]
      exact ⟨by simp [Instr.wellFormed, hv, hbody], rfl, rfl⟩
    | some v =>
      rw [← Variant.ofTag_eq_some.1 hv, decodeFrame_tag]
      exact ⟨(wellFormed_instr v body).trans hbody, (selectedAt_instr v body .frame).trans rfl, encode_instr v body⟩

/-- What the decoder answers comes from one of the three maps, at its own place. -/
theorem decode_ok {site : Site} {code : Code} {i : Instr} (h : decode site code = .ok i) :
    (∃ scan esc t, site = .stream scan esc ∧ code = t.code ∧ i = decodeToken scan esc t) ∨
    (∃ asm sum u, site = .assembler asm sum ∧ code = .bytes [u] ∧ i = decodeDelivered asm sum u) ∨
    (∃ content, site = .frame ∧ code = .bytes content ∧ content.length ≤ maxContent ∧ i = decodeFrame content) := by
  unfold decode at h
  split at h
  · cases h
    exact .inl ⟨_, _, .eos, rfl, rfl, rfl⟩
  · cases h
    exact .inl ⟨_, _, .byte _, rfl, rfl, rfl⟩
  · cases h
  · cases h
    exact .inr (.inl ⟨_, _, _, rfl, rfl, rfl⟩)
  · cases h
  · cases h
  · split at h
    · next hlen =>
      cases h
      exact .inr (.inr ⟨_, rfl, rfl, hlen, rfl⟩)
    · cases h
  · cases h

/-- Settles O2: the decoder's answer comes from one of the three maps (`decode_ok`), and what each of them gives is met
there as what was read (`decodeToken_metAs`, `decodeDelivered_metAs`, `decodeFrame_metAs`). -/
theorem encodeInvertsDecode : Obligations.EncodeInvertsDecode := by
  unfold Obligations.EncodeInvertsDecode
  intro site code i h
  obtain ⟨scan, esc, t, rfl, rfl, rfl⟩ | ⟨asm, sum, u, rfl, rfl, rfl⟩ | ⟨content, rfl, rfl, hlen, rfl⟩ := decode_ok h
  · exact decodeToken_metAs scan esc t
  · exact decodeDelivered_metAs asm sum u
  · exact decodeFrame_metAs hlen

/-- Settles O3: eight codes by the rows of the stream map and the assembler's map, four by the tag map. -/
theorem writtenOutWordsDecode : Obligations.WrittenOutWordsDecode := by
  unfold Obligations.WrittenOutWordsDecode
  exact ⟨rfl, rfl, rfl, rfl, rfl, rfl, rfl, rfl, rfl, rfl, rfl, rfl⟩

/-! ## One changed content byte -/

/-- Settles O50: in naturals the two sums differ by the difference of the two bytes, which is less than 256
(`checksumGood_iff_toNat`, `sumBytes_toNat`). -/
theorem oneByteMutationRejected : Obligations.OneByteMutationRejected := by
  unfold Obligations.OneByteMutationRejected
  intro xs ys b b' k hne hgood
  refine Bool.eq_false_iff.2 fun hgood' => hne (BitVec.eq_of_toNat_eq ?_)
  rw [checksumGood_iff_toNat, sumBytes_toNat, List.map_append, List.map_cons, List.sum_append, List.sum_cons]
    at hgood hgood'
  have hb := b.isLt
  have hb' := b'.isLt
  omega

end Sys2Proof

namespace Sys2Proof.Machine

/-! ## The operation that runs -/

/-- Settles O6: with `rst` = 0 the token's operation runs on the state with its cycle taken (`step_token`), which
`nextCycle` writes out. -/
theorem stepRunsDecodedOperation : Obligations.StepRunsDecodedOperation := by
  unfold Obligations.StepRunsDecodedOperation
  intro s c rest t hin hrst htok
  rw [step_token hin hrst htok, nextCycle]

/-- `deliver` runs the operation that the assembler's map selects (40_pipeline.md R105). -/
theorem deliver_eq_exec_decodeDelivered (u : Byte) (s : State) :
    deliver u s = exec (decodeDelivered s.asm s.sum u) s := by
  unfold deliver
  cases s.asm with
  | lenHi => rfl
  | lenLo => rfl
  | payload => rfl
  | csum =>
    by_cases hgood : checksumGood s.sum u = true
    · rw [decodeDelivered_csum_good hgood]
      exact if_pos hgood
    · rw [decodeDelivered_csum_bad hgood]
      exact if_neg hgood

/-- Settles O7: both raw-byte operations deliver with `esc` cleared (`exec_escByte`, `exec_plainByte`), and a delivery
runs the operation its value selects (`deliver_eq_exec_decodeDelivered`). -/
theorem rawByteRunsAssemblerOperation : Obligations.RawByteRunsAssemblerOperation := by
  unfold Obligations.RawByteRunsAssemblerOperation
  intro s b
  rw [exec_escByte, exec_plainByte, deliver_eq_exec_decodeDelivered, deliver_eq_exec_decodeDelivered]
  exact ⟨rfl, rfl⟩

/-- The operation a Verified Frame selects puts the frame's one event on the record port (44_dispatcher.md R150). -/
theorem exec_decodeFrame (frame : List Byte) (s : State) :
    exec (decodeFrame frame) s = .next (emitOut s (frameEvent s.params.schema frame)) := by
  rw [← execFrame_eq]
  cases frame with
  | nil => rfl
  | cons tag body =>
    cases hv : Variant.ofTag tag with
    | none => simp only [decodeFrame, execFrame, hv, exec]
    | some v => simp only [decodeFrame, execFrame, hv, exec_instr, execVariant_eq]

/-- Settles O8: the selected operation emits the frame's event (`exec_decodeFrame`), and the checksum beat is that event
and a `resync` (`exec_checkGood_of_frame`). -/
theorem goodChecksumRunsFrameOperation : Obligations.GoodChecksumRunsFrameOperation := by
  unfold Obligations.GoodChecksumRunsFrameOperation
  exact fun s u frame hframe => ⟨_, exec_decodeFrame frame s, exec_checkGood_of_frame u hframe⟩

/-! ## Where the model stops -/

/-- A run with a byte that nothing has written has no value. -/
theorem Memory.readBytes_eq_none {m : Memory} {a n b : Nat} (hle : a ≤ b) (hlt : b < a + n) (hb : m.read b = none) :
    m.readBytes a n = none := by
  induction n generalizing a with
  | zero => omega
  | succ n ih =>
    rw [Memory.readBytes]
    obtain rfl | hne := eq_or_ne a b
    · rw [hb]
    · rw [ih (by omega) (by omega)]
      cases m.read a <;> rfl

/-- Settles O20: `COLLECT` tests its address first (`execCollect_eq`), and a Verified Frame with an unwritten byte has
no value (`Memory.readBytes_eq_none`, `execCheckGood_of_none`). -/
theorem stopsAreNamed : Obligations.StopsAreNamed := by
  unfold Obligations.StopsAreNamed
  refine ⟨fun s u hwr => (execCollect_eq u s).trans (if_neg hwr), fun s u a hlt hread => ?_⟩
  exact execCheckGood_of_none u (Memory.readBytes_eq_none (Nat.zero_le a) (by rwa [Nat.zero_add]) hread)

end Sys2Proof.Machine
end

section
/-! PROOFS. The fixed records (45_fixed_records.md R171 to R182): the plain fields a format begins with as one table of
addresses, read off the format itself, and the checked fields behind them. -/

namespace Sys2Proof.Machine

/-! ## The plain fields a format begins with -/

/-- What a plain field reads at an address: its name, its size, and the value any bytes there have (44_dispatcher.md
R157, R158); a checked field and the IO samples are not plain. -/
def plainRead (frame : List Byte) (pos : Nat) : Field → Option (FieldName × Nat × Value)
  | .u8 name      => some (name, 1, .u8 (read8 frame pos))
  | .u16 name     => some (name, 2, .u16 (read16 frame pos))
  | .u64 name     => some (name, 8, .u64 (read64 frame pos))
  | .bytes name n => some (name, n, .bytes (memBytes frame pos n))
  | .const8 ..    => none
  | .const16 ..   => none
  | .enum8 ..     => none
  | .ioSamples    => none

theorem readField_of_plainRead {frame : List Byte} {pos n : Nat} {f : Field} {name : FieldName} {v : Value}
    (h : plainRead frame pos f = some (name, n, v)) : readField frame f pos = readPlain frame pos n name v := by
  cases f with
  | u8 | u16 | u64 | bytes =>
    cases h
    rfl
  | const8 | const16 | enum8 | ioSamples => cases h

/-- The plain fields a list begins with, walked from an address: the table of the addresses after them, their values,
and where the walk then stands before which fields. -/
structure PlainRun where
  table  : List (FieldName × Nat)
  fields : Fields
  stop   : Nat
  rest   : List Field

/-- The plain run of a format's fields from an address on. -/
def plainRun (frame : List Byte) : List Field → Nat → PlainRun
  | [], pos      => ⟨[], [], pos, []⟩
  | f :: fs, pos =>
    match plainRead frame pos f with
    | none              => ⟨[], [], pos, f :: fs⟩
    | some (name, n, v) =>
      let run := plainRun frame fs (pos + n)
      ⟨(name, pos + n) :: run.table, (name, v) :: run.fields, run.stop, run.rest⟩

/-- The walk of a format, in the statements' words: `SHORT_FRAME` by the table of its plain run, else the run's values
and the rest of the walk. -/
theorem finish_plainRun {variant : Variant} {tl : FieldName} {frame : List Byte} {acc : Fields}
    (htag : frame.head? = some variant.tag) (fs : List Field) (pos : Nat) :
    finish variant tl frame acc (readFields frame fs pos) =
      shortOr frame (plainRun frame fs pos).table
        (finish variant tl frame (acc ++ (plainRun frame fs pos).fields)
          (readFields frame (plainRun frame fs pos).rest (plainRun frame fs pos).stop)) := by
  induction fs generalizing acc pos with
  | nil => rw [plainRun, shortOr_nil, List.append_nil]
  | cons f fs ih =>
    rw [plainRun]
    cases hread : plainRead frame pos f with
    | none => rw [shortOr_nil, List.append_nil]
    | some row =>
      obtain ⟨name, n, v⟩ := row
      rw [finish_plain_eq_shortOr htag (readField_of_plainRead hread), ih, ← shortOr_append, List.append_assoc]
      rfl

/-- A record decoder in a block whose ROM is the default: the table of the plain run its format begins with, and the
walk behind it. -/
theorem exec_record_plainRun {s : State} (hschema : s.params.schema = Schema.default) (v : Variant) (body : List Byte) :
    let run := plainRun (v.tag :: body) (Schema.default.format v).fixed 1
    exec (v.instr body) s = .next { s with
      out := some (shortOr (v.tag :: body) run.table
        (finish v (Schema.default.format v).tail (v.tag :: body) run.fields
          (readFields (v.tag :: body) run.rest run.stop))) } := by
  intro run
  rw [exec_record hschema, finish_plainRun rfl, List.nil_append]

/-! ## The records of plain fields

Behind the plain run of these formats stands nothing but the tail (`exec_record_plainRun`), so the statement's table,
record and tail address are the run of the format, computed. -/

/-- Settles O25, by the plain run of the default format (R171): a one-byte field and a run of two bytes. -/
theorem atCmdRecord : Obligations.AtCmdRecord := by
  unfold Obligations.AtCmdRecord
  rintro s body _ hschema rfl
  exact exec_record_plainRun hschema .atCmd body

/-- Settles O26, by the plain run of the default format (R172): the fields of `AT_CMD` under another tag. -/
theorem atCmdQueuedRecord : Obligations.AtCmdQueuedRecord := by
  unfold Obligations.AtCmdQueuedRecord
  rintro s body _ hschema rfl
  exact exec_record_plainRun hschema .atCmdQueued body

/-- Settles O27, by the plain run of the default format (R173): a status byte behind the command. -/
theorem atRespRecord : Obligations.AtRespRecord := by
  unfold Obligations.AtRespRecord
  rintro s body _ hschema rfl
  exact exec_record_plainRun hschema .atResp body

/-- Settles O28, by the plain run of the default format (R174): `OUTADDR` (30_encoding.md R79) behind the frame ID. -/
theorem remoteAtReqRecord : Obligations.RemoteAtReqRecord := by
  unfold Obligations.RemoteAtReqRecord
  rintro s body _ hschema rfl
  exact exec_record_plainRun hschema .remoteAtReq body

/-- Settles O29, by the plain run of the default format (R175): `INADDR` (30_encoding.md R79) behind the frame ID. -/
theorem remoteAtRespRecord : Obligations.RemoteAtRespRecord := by
  unfold Obligations.RemoteAtRespRecord
  rintro s body _ hschema rfl
  exact exec_record_plainRun hschema .remoteAtResp body

/-- Settles O32, by the plain run of the default format (R178): three bytes behind the 16-bit address. -/
theorem txStatusRecord : Obligations.TxStatusRecord := by
  unfold Obligations.TxStatusRecord
  rintro s body _ hschema rfl
  exact exec_record_plainRun hschema .txStatus body

/-- Settles O33, by the plain run of the default format (R179): `INADDR` and the options, and no frame ID. -/
theorem rxPacketRecord : Obligations.RxPacketRecord := by
  unfold Obligations.RxPacketRecord
  rintro s body _ hschema rfl
  exact exec_record_plainRun hschema .rxPacket body

/-- Settles O34, by the plain run of the default format (R180): `profile_id` is a plain 16-bit field, so
no value of it fails. -/
theorem rxExplicitRecord : Obligations.RxExplicitRecord := by
  unfold Obligations.RxExplicitRecord
  rintro s body _ hschema rfl
  exact exec_record_plainRun hschema .rxExplicit body

/-- Settles O35, by the plain run of the default format (R181): five 16-bit fields, none of them behind a mask. -/
theorem rxSensorRecord : Obligations.RxSensorRecord := by
  unfold Obligations.RxSensorRecord
  rintro s body _ hschema rfl
  exact exec_record_plainRun hschema .rxSensor body

/-- Settles O36, by the plain run of the default format (R182): the second pair of addresses is plain,
and what follows them is the tail. -/
theorem rxNodeIdRecord : Obligations.RxNodeIdRecord := by
  unfold Obligations.RxNodeIdRecord
  rintro s body _ hschema rfl
  exact exec_record_plainRun hschema .rxNodeId body

/-! ## Checked fields -/

/-- The walk at a checked field, in the statements' words: `SHORT_FRAME` by the row of the field, then its value test,
then the rest of the walk (R159, R160, R163). -/
theorem finish_checked_eq_shortOr {variant : Variant} {tl : FieldName} {frame : List Byte} {acc : Fields} {f : Field}
    {fs : List Field} {pos n : Nat} {name : FieldName} {v : Value} {good : Bool} {bad : Reason}
    (htag : frame.head? = some variant.tag) (h : readField frame f pos = readChecked frame pos n name v good bad) :
    finish variant tl frame acc (readFields frame (f :: fs) pos) =
      shortOr frame [(name, pos + n)]
        (if good = true then finish variant tl frame (acc ++ [(name, v)]) (readFields frame fs (pos + n))
        else .decodeFailure (some variant.tag) bad (some name)) := by
  rw [finish_checked variant tl frame acc fs pos name h, shortOr_cons, shortOr_nil, htag]

theorem mem_txOptions {b : Byte} : txOptions.contains b = true ↔ b = 0x00 ∨ b = 0x08 := by
  simp [txOptions]

/-- Settles O30: behind the plain run of the default format stands the enumerated options byte, whose row joins the
table (`shortOr_append`). -/
theorem txReqRecord : Obligations.TxReqRecord := by
  unfold Obligations.TxReqRecord
  rintro s body _ hschema rfl
  refine (exec_record_plainRun hschema .txReq body).trans ?_
  have hoptions := finish_checked_eq_shortOr (variant := .txReq) (tl := .rfData) (frame := 0x10 :: body)
    (acc := (plainRun (0x10 :: body) fmtTxReq.fixed 1).fields) (f := .enum8 .options txOptions) (fs := []) (pos := 13)
    rfl rfl
  simp only [mem_txOptions] at hoptions
  refine congrArg (fun e => Host.Outcome.next { s with out := some e }) ?_
  exact (congrArg _ hoptions).trans (shortOr_append _ _ _ _).symm

/-- Settles O31: each checked field ends one table and its value test stands before the next (`finish_plain_eq_shortOr`,
`finish_checked_eq_shortOr`), so the lowest failing address is reported. -/
theorem txExplicitRecord : Obligations.TxExplicitRecord := by
  unfold Obligations.TxExplicitRecord
  rintro s body _ hschema rfl
  refine (exec_record hschema .txExplicit body).trans ?_
  refine congrArg (fun e => Host.Outcome.next { s with out := some e }) ?_
  have htag : (0x11 :: body).head? = some Variant.txExplicit.tag := rfl
  change finish .txExplicit .rfData (0x11 :: body) [] (readFields (0x11 :: body) fmtTxExplicit.fixed 1) = _
  generalize (0x11 :: body : List Byte) = frame at htag ⊢
  simp only [fmtTxExplicit, outAddr, List.cons_append, List.nil_append]
  rw [finish_plain_eq_shortOr htag rfl, finish_plain_eq_shortOr htag rfl, finish_plain_eq_shortOr htag rfl,
    finish_plain_eq_shortOr htag rfl, finish_plain_eq_shortOr htag rfl, finish_checked_eq_shortOr htag rfl,
    finish_plain_eq_shortOr htag rfl, finish_checked_eq_shortOr htag rfl, finish_plain_eq_shortOr htag rfl,
    finish_checked_eq_shortOr htag rfl, finish_nil]
  simp only [← shortOr_append, List.cons_append, List.nil_append, beq_iff_eq, mem_txOptions, ne_eq, ← not_or, ite_not]
  rfl

end Sys2Proof.Machine
end

section
/-! PROOFS. Laws of the record decoders: which failures a format can give (60_exceptions.md R212, 30_encoding.md R183),
when an IO sample is a record (46_io_sample.md R199), and that no content byte is dropped or read twice
(45_fixed_records.md R183). -/

namespace Sys2Proof.Machine

/-! ## The failures of a format -/

/-- The check a field kind makes on its value, with the name it fails under (44_dispatcher.md R159, R160). -/
def checkOf : Field → Option (FieldName × Reason)
  | .const8 name _  => some (name, .constMismatch)
  | .const16 name _ => some (name, .constMismatch)
  | .enum8 name _   => some (name, .enumOutOfSet)
  | .u8 _           => none
  | .u16 _          => none
  | .u64 _          => none
  | .bytes ..       => none
  | .ioSamples      => none

theorem readPlain_error {frame : List Byte} {pos n : Nat} {name : FieldName} {v : Value} {e : Failure}
    (h : readPlain frame pos n name v = .error e) : e.reason = .shortFrame := by
  unfold readPlain at h
  split at h
  · cases h
  · cases h
    rfl

theorem readChecked_error {frame : List Byte} {pos n : Nat} {name : FieldName} {v : Value} {good : Bool} {bad : Reason}
    {e : Failure} (h : readChecked frame pos n name v good bad = .error e) :
    e.reason = .shortFrame ∨ some (name, bad) = some (e.field, e.reason) := by
  unfold readChecked at h
  split at h
  · split at h
    · cases h
    · cases h
      exact .inr rfl
  · cases h
    exact .inl rfl

theorem readDigital_error_reason {frame : List Byte} {dmask : U16} {pos : Nat} {e : Failure}
    (h : readDigital frame dmask pos = .error e) : e.reason = .shortFrame := by
  by_cases hd : dmask = 0
  · rw [readDigital_of_zero hd] at h
    cases h
  · rw [readDigital_of_ne_zero hd] at h
    split at h
    · cases h
      rfl
    · cases h

theorem readAnalog_error_reason {frame : List Byte} {amask : Byte} {cs : List Channel} {pos : Nat} {e : Failure}
    (h : readAnalog frame amask cs pos = .error e) : e.reason = .shortFrame := by
  rw [readAnalog_eq] at h
  split at h
  · cases h
    rfl
  · cases h

theorem readSamples_error_reason {frame : List Byte} {dmask : U16} {amask : Byte} {pos : Nat} {e : Failure}
    (h : readSamples frame dmask amask pos = .error e) : e.reason = .shortFrame := by
  unfold readSamples at h
  split at h
  · next hdigital =>
    cases h
    exact readDigital_error_reason hdigital
  · split at h
    · next hanalog =>
      cases h
      exact readAnalog_error_reason hanalog
    · cases h

theorem readIoSamples_error_reason {frame : List Byte} {pos : Nat} {e : Failure}
    (h : readIoSamples frame pos = .error e) : e.reason = .shortFrame := by
  unfold readIoSamples at h
  split at h
  · split at h
    · exact readSamples_error_reason h
    · cases h
      rfl
  · cases h
    rfl

/-- A field fails because it does not fit, or by its own check. -/
theorem readField_error {frame : List Byte} {f : Field} {pos : Nat} {e : Failure}
    (h : readField frame f pos = .error e) : e.reason = .shortFrame ∨ checkOf f = some (e.field, e.reason) := by
  cases f with
  | u8 | u16 | u64 | bytes => exact .inl (readPlain_error h)
  | const8 | const16 | enum8 => exact readChecked_error h
  | ioSamples => exact .inl (readIoSamples_error_reason h)

/-- The failure of a walk is the failure of one of its fields. -/
theorem readFields_error {frame : List Byte} {fs : List Field} {pos : Nat} {e : Failure}
    (h : readFields frame fs pos = .error e) : ∃ f ∈ fs, ∃ p, readField frame f p = .error e := by
  induction fs generalizing pos with
  | nil => cases h
  | cons f fs ih =>
    simp only [readFields] at h
    split at h
    · next hf =>
      cases h
      exact ⟨f, List.mem_cons_self, pos, hf⟩
    · split at h
      · next hfs =>
        cases h
        obtain ⟨f', hmem, hf'⟩ := ih hfs
        exact ⟨f', List.mem_cons_of_mem f hmem, hf'⟩
      · cases h

theorem runFields_decodeFailure {v : Variant} {fmt : Format} {frame : List Byte} {tag : Option Byte} {reason : Reason}
    {field : Option FieldName} (h : runFields v fmt frame = .decodeFailure tag reason field) :
    tag = some v.tag ∧ ∃ name, field = some name ∧
      (reason = .shortFrame ∨ (name, reason) ∈ fmt.fixed.filterMap checkOf) := by
  unfold runFields at h
  split at h
  · next e hread =>
    cases h
    obtain ⟨f, hmem, p, hf⟩ := readFields_error hread
    exact ⟨rfl, e.field, rfl, (readField_error hf).imp_right fun hcheck => List.mem_filterMap.2 ⟨f, hmem, hcheck⟩⟩
  · cases h

/-- The checks of the default formats (R183(b); log 11). -/
def defaultChecks : Variant → List (FieldName × Reason)
  | .txReq      => [(.options, .enumOutOfSet)]
  | .txExplicit => [(.reserved, .constMismatch), (.profileId, .constMismatch), (.options, .enumOutOfSet)]
  | _           => []

theorem filterMap_checkOf_default (v : Variant) :
    (Schema.default.format v).fixed.filterMap checkOf = defaultChecks v := by
  cases v <;> rfl

@[simp] theorem frameEvent_nil (sc : Schema) : frameEvent sc [] = .decodeFailure none .emptyFrame none := rfl

theorem frameEvent_tag (sc : Schema) (v : Variant) (body : List Byte) :
    frameEvent sc (v.tag :: body) = runFields v (sc.format v) (v.tag :: body) := by
  simp [frameEvent]

theorem frameEvent_unknown (sc : Schema) {tag : Byte} (body : List Byte) (h : Variant.ofTag tag = none) :
    frameEvent sc (tag :: body) = .unknown tag body := by
  simp [frameEvent, h]

/-- A frame of a known tag is the walk of its format; only such a frame can fail a check. -/
theorem frameEvent_failed_check {sc : Schema} {frame : List Byte} {tag : Option Byte} {reason : Reason}
    {field : Option FieldName} (h : frameEvent sc frame = .decodeFailure tag reason field)
    (hreason : reason = .constMismatch ∨ reason = .enumOutOfSet) :
    ∃ v name, tag = some (Variant.tag v) ∧ field = some name ∧
      (name, reason) ∈ (sc.format v).fixed.filterMap checkOf := by
  have hempty : reason ≠ .emptyFrame := fun h => by simp [h] at hreason
  have hshort : reason ≠ .shortFrame := fun h => by simp [h] at hreason
  cases frame with
  | nil =>
    rw [frameEvent_nil] at h
    cases h
    exact absurd rfl hempty
  | cons t body =>
    cases hv : Variant.ofTag t with
    | none =>
      rw [frameEvent_unknown sc body hv] at h
      cases h
    | some v =>
      rw [← Variant.ofTag_eq_some.1 hv, frameEvent_tag] at h
      obtain ⟨htag, name, hfield, hcheck⟩ := runFields_decodeFailure h
      exact ⟨v, name, htag, hfield, hcheck.resolve_left hshort⟩

/-- Settles O48: a failed check is one of the format's own (`frameEvent_failed_check`), and of the default formats only
two have any (`filterMap_checkOf_default`). -/
theorem onlyTransmitRecordsAreChecked : Obligations.OnlyTransmitRecordsAreChecked := by
  unfold Obligations.OnlyTransmitRecordsAreChecked
  intro frame tag reason field h hreason
  obtain ⟨v, name, rfl, rfl, hcheck⟩ := frameEvent_failed_check h hreason
  rw [filterMap_checkOf_default] at hcheck
  cases v with
  | txReq =>
    obtain ⟨rfl, rfl⟩ : name = .options ∧ reason = .enumOutOfSet := by simpa [defaultChecks] using hcheck
    exact .inl ⟨rfl, rfl, rfl⟩
  | txExplicit =>
    simp only [defaultChecks, List.mem_cons, Prod.mk.injEq, List.not_mem_nil, or_false] at hcheck
    obtain ⟨rfl, -⟩ | ⟨rfl, -⟩ | ⟨rfl, -⟩ := hcheck
    · exact .inr ⟨rfl, .inl rfl⟩
    · exact .inr ⟨rfl, .inr (.inl rfl)⟩
    · exact .inr ⟨rfl, .inr (.inr rfl)⟩
  | _ => cases hcheck

/-! ## The size of an IO sample -/

theorem firstPast_eq_none_iff {len : Nat} {tbl : List (FieldName × Nat)} :
    firstPast len tbl = none ↔ ∀ ne ∈ tbl, ne.2 ≤ len := by
  simp [firstPast_eq_find?]

/-- A record behind a table is given exactly when every row of the table fits. -/
theorem shortOr_eq_record_iff {frame : List Byte} {tbl : List (FieldName × Nat)} {v : Variant} {fs : Fields} :
    (∃ fs', shortOr frame tbl (.record v fs) = .record v fs') ↔ ∀ ne ∈ tbl, ne.2 ≤ frame.length := by
  rw [← firstPast_eq_none_iff, shortOr]
  cases firstPast frame.length tbl with
  | none => exact ⟨fun _ => rfl, fun _ => ⟨fs, rfl⟩⟩
  | some f => exact ⟨fun ⟨_, h⟩ => (nomatch h), nofun⟩

/-- The analog samples fit exactly when the last of them does. -/
theorem analogTable_fits_iff {amask : Byte} {base len : Nat} :
    (∀ ne ∈ analogTable amask base, ne.2 ≤ len) ↔
      analogCount amask = 0 ∨ base + 2 * analogCount amask ≤ len := by
  rw [← samples_before_fit_iff, analogTable, List.forall_mem_map, setChannels_eq, analogCount_eq]
  generalize selected amask Channel.order = cs
  have hindices : cs.zipIdx.map Prod.snd = List.range' 0 cs.length := List.zipIdx_map_snd ..
  have hmem := List.forall_mem_map (l := cs.zipIdx) (f := Prod.snd) (P := fun j => base + 2 * j + 2 ≤ len)
  rw [← hmem, hindices]
  simp only [List.mem_range'_1, Nat.zero_le, Nat.zero_add, true_and]

theorem analogBase_bounds (dmask : U16) : 16 ≤ analogBase dmask ∧ analogBase dmask ≤ 18 := by
  unfold analogBase
  split_ifs <;> omega

theorem analogCount_le (amask : Byte) : analogCount amask ≤ 5 :=
  (List.length_filter_le _ _).trans (by simp)

/-- The digital samples word and the analog samples of a frame that holds both masks. -/
theorem sampleTable_fits_iff {dmask : U16} {amask : Byte} {len : Nat} (hlen : 16 ≤ len) :
    (∀ ne ∈ digitalTable dmask ++ analogTable amask (analogBase dmask), ne.2 ≤ len) ↔
      analogBase dmask + 2 * analogCount amask ≤ len := by
  rw [List.forall_mem_append, analogTable_fits_iff]
  unfold digitalTable analogBase
  split_ifs with hd
  · simp only [List.not_mem_nil, false_imp_iff, implies_true, true_and]
    omega
  · simp only [List.mem_singleton, forall_eq]
    omega

/-- The event of a frame of tag 0x92 that holds both masks: the record, if what the masks select fits. -/
theorem frameEvent_rxIoSample_eq_record_iff {frame : List Byte} (htag : frame.head? = some Variant.rxIoSample.tag)
    (hlen : 16 ≤ frame.length) :
    (∃ fs, finish .rxIoSample .tail frame [] (readFields frame fmtRxIoSample.fixed 1) = .record .rxIoSample fs) ↔
      analogBase (read16 frame 13) + 2 * analogCount (read8 frame 15) ≤ frame.length := by
  rw [finish_rxIoSample frame htag, ← shortOr_append, shortOr_eq_record_iff, List.forall_mem_append,
    sampleTable_fits_iff hlen]
  refine and_iff_right ?_
  simp only [List.forall_mem_cons, List.not_mem_nil, false_imp_iff, implies_true, and_true]
  omega

/-- Settles O47: the walk of `RX_IO_SAMPLE` is its record behind two tables (`finish_rxIoSample`), the first of which 16
bytes fit and the second exactly the size law (`sampleTable_fits_iff`). -/
theorem ioSampleSizeLaw : Obligations.IoSampleSizeLaw := by
  unfold Obligations.IoSampleSizeLaw
  rintro body _ rfl hlen
  have hevent : frameEvent Schema.default (0x92 :: body) =
      finish .rxIoSample .tail (0x92 :: body) [] (readFields (0x92 :: body) fmtRxIoSample.fixed 1) :=
    (frameEvent_tag Schema.default .rxIoSample body).trans (runFields_eq_finish ..)
  rw [hevent]
  refine ⟨frameEvent_rxIoSample_eq_record_iff rfl hlen, ?_⟩
  have hcount := analogCount_le (read8 (0x92 :: body) 15)
  have hbase := analogBase_bounds (read16 (0x92 :: body) 13)
  omega

/-! ## The wire bytes of a record -/

/-- The last `k` base-256 digits of a number, most significant first. -/
def bigEndian (k n : Nat) : List Byte := (List.range k).reverse.map fun i => BitVec.ofNat 8 (n / 256 ^ i)

/-- The digits of a big-endian value are its bytes (00_scope.md R9). -/
theorem bigEndian_be (bs : List Byte) : bigEndian bs.length (be bs) = bs := by
  induction bs using List.reverseRecOn with
  | nil => rfl
  | append_singleton bs b ih =>
    have hlast : BitVec.ofNat 8 (be bs * 256 + b.toNat) = b := BitVec.eq_of_toNat_eq (by
      have hb := b.isLt
      rw [BitVec.toNat_ofNat]
      omega)
    have hnext (i : Nat) : (be bs * 256 + b.toNat) / 256 ^ (i + 1) = be bs / 256 ^ i := by
      have hb := b.isLt
      rw [pow_succ', ← Nat.div_div_eq_div_mul]
      congr 1
      omega
    unfold bigEndian at ih ⊢
    rw [be_append_byte, List.length_append, List.length_singleton, List.range_succ_eq_map, List.reverse_cons,
      List.map_append, ← List.map_reverse, List.map_map]
    simp only [Function.comp_def, Nat.succ_eq_add_one, hnext, ih, List.map_singleton, pow_zero, Nat.div_one, hlast]

theorem extractLsb'_eq_digit {w : Nat} (v : BitVec w) (i : Nat) :
    v.extractLsb' (8 * i) 8 = BitVec.ofNat 8 (v.toNat / 256 ^ i) := by
  rw [BitVec.extractLsb', Nat.shiftRight_eq_div_pow, pow_mul]
  rfl

theorem valueBytes_u8 (v : Byte) : valueBytes (.u8 v) = bigEndian 1 v.toNat := by
  simp [valueBytes, bigEndian]

theorem valueBytes_u16 (v : U16) : valueBytes (.u16 v) = bigEndian 2 v.toNat := by
  rw [bigEndian]
  simp only [← extractLsb'_eq_digit]
  rfl

theorem valueBytes_u64 (v : U64) : valueBytes (.u64 v) = bigEndian 8 v.toNat := by
  rw [bigEndian]
  simp only [← extractLsb'_eq_digit]
  rfl

section Reads
variable {frame : List Byte} {pos : Nat}

/-- A value that is a read of the frame has the frame's bytes. -/
theorem bigEndian_memRead {n : Nat} (h : pos + n ≤ frame.length) :
    bigEndian n (be (memBytes frame pos n)) = memBytes frame pos n := by
  have hbytes := bigEndian_be (memBytes frame pos n)
  rwa [memBytes_length h] at hbytes

theorem valueBytes_read8 (h : pos + 1 ≤ frame.length) : valueBytes (.u8 (read8 frame pos)) = memBytes frame pos 1 := by
  have hread : (read8 frame pos).toNat = be (memBytes frame pos 1) := Nat.mod_eq_of_lt (memRead_lt h)
  rw [valueBytes_u8, hread, bigEndian_memRead h]

theorem valueBytes_read16 (h : pos + 2 ≤ frame.length) :
    valueBytes (.u16 (read16 frame pos)) = memBytes frame pos 2 := by
  rw [valueBytes_u16, read16_toNat h, bigEndian_memRead h]

theorem valueBytes_read64 (h : pos + 8 ≤ frame.length) :
    valueBytes (.u64 (read64 frame pos)) = memBytes frame pos 8 := by
  rw [valueBytes_u64, read64_toNat h, bigEndian_memRead h]

end Reads

/-- The fields `vs` hold the bytes of the frame from `pos` to `q`, each once and in order. -/
def Covers (frame : List Byte) (pos : Nat) (vs : Fields) (q : Nat) : Prop :=
  ∃ n, q = pos + n ∧ q ≤ frame.length ∧ vs.flatMap (fun nv => valueBytes nv.2) = memBytes frame pos n

section Covers
variable {frame : List Byte} {pos p q n : Nat} {vs ws : Fields} {name : FieldName} {v : Value}

theorem Covers.nil (h : pos ≤ frame.length) : Covers frame pos [] pos :=
  ⟨0, rfl, h, (memBytes_zero frame pos).symm⟩

theorem Covers.single (h : pos + n ≤ frame.length) (hv : valueBytes v = memBytes frame pos n) :
    Covers frame pos [(name, v)] (pos + n) :=
  ⟨n, rfl, h, by simpa using hv⟩

theorem Covers.le (h : Covers frame pos vs q) : q ≤ frame.length := by
  obtain ⟨-, -, hle, -⟩ := h
  exact hle

theorem Covers.append (h : Covers frame pos vs p) (h' : Covers frame p ws q) : Covers frame pos (vs ++ ws) q := by
  obtain ⟨m, rfl, -, hvs⟩ := h
  obtain ⟨n, rfl, hle, hws⟩ := h'
  exact ⟨m + n, Nat.add_assoc pos m n, hle, by rw [List.flatMap_append, hvs, hws, memBytes_add]⟩

theorem readPlain_covers {r : Fields × Nat} (h : readPlain frame pos n name v = .ok r)
    (hv : pos + n ≤ frame.length → valueBytes v = memBytes frame pos n) : Covers frame pos r.1 r.2 := by
  obtain ⟨hfit, rfl⟩ := readPlain_ok h
  exact .single hfit (hv hfit)

theorem readChecked_covers {r : Fields × Nat} {good : Bool} {bad : Reason}
    (h : readChecked frame pos n name v good bad = .ok r)
    (hv : pos + n ≤ frame.length → valueBytes v = memBytes frame pos n) : Covers frame pos r.1 r.2 := by
  obtain ⟨hfit, -, rfl⟩ := readChecked_ok h
  exact .single hfit (hv hfit)

end Covers

theorem readDigital_covers {frame : List Byte} {dmask : U16} {pos p : Nat} {d : Option U16} (hpos : pos ≤ frame.length)
    (h : readDigital frame dmask pos = .ok (d, p)) : Covers frame pos [(.dsamples, .optU16 d)] p := by
  obtain ⟨-, rfl, rfl⟩ | ⟨-, hfit, rfl, rfl⟩ := readDigital_ok h
  · exact .single (n := 0) hpos (memBytes_zero frame p).symm
  · exact .single hfit (valueBytes_read16 hfit)

theorem readAnalog_covers {frame : List Byte} {amask : Byte} {cs : List Channel} {pos q : Nat}
    {vs : List (Channel × U16)} (hpos : pos ≤ frame.length) (h : readAnalog frame amask cs pos = .ok (vs, q)) :
    Covers frame pos [(.asamples, .samples vs)] q := by
  induction cs generalizing pos vs with
  | nil =>
    cases h
    exact .single (n := 0) hpos (memBytes_zero frame _).symm
  | cons c cs ih =>
    simp only [readAnalog] at h
    split at h
    · split at h
      · next hfit =>
        have hfit := fits_iff.1 hfit
        split at h
        · next ws q' hr =>
          cases h
          have hfirst : Covers frame pos [(.asamples, .u16 (read16 frame pos))] (pos + 2) :=
            .single hfit (valueBytes_read16 hfit)
          obtain ⟨n, hq, hle, hws⟩ := hfirst.append (ih hfit hr)
          exact ⟨n, hq, hle, by simpa [valueBytes] using hws⟩
        · cases h
      · cases h
    · exact ih hpos h

theorem readIoSamples_covers {frame : List Byte} {pos : Nat} {r : Fields × Nat}
    (h : readIoSamples frame pos = .ok r) : Covers frame pos r.1 r.2 := by
  obtain ⟨fs, q⟩ := r
  obtain ⟨hfit, d, p, vs, hdigital, hanalog, rfl⟩ := readIoSamples_ok h
  have hdmask : Covers frame pos [(.dmask, .u16 (read16 frame pos))] (pos + 2) :=
    .single (by omega) (valueBytes_read16 (by omega))
  have hamask : Covers frame (pos + 2) [(.amask, .u8 (read8 frame (pos + 2)))] (pos + 2 + 1) :=
    .single hfit (valueBytes_read8 hfit)
  have hd : Covers frame (pos + 2 + 1) [(.dsamples, .optU16 d)] p := readDigital_covers hfit hdigital
  exact hdmask.append (hamask.append (hd.append (readAnalog_covers hd.le hanalog)))

/-- Whatever a field reads, it reads the bytes from its own address to the new cursor. -/
theorem readField_covers {frame : List Byte} {f : Field} {pos : Nat} {r : Fields × Nat}
    (h : readField frame f pos = .ok r) : Covers frame pos r.1 r.2 := by
  cases f with
  | u8 name => exact readPlain_covers h valueBytes_read8
  | u16 name => exact readPlain_covers h valueBytes_read16
  | u64 name => exact readPlain_covers h valueBytes_read64
  | bytes name n => exact readPlain_covers h fun _ => rfl
  | const8 name c => exact readChecked_covers h valueBytes_read8
  | const16 name c => exact readChecked_covers h valueBytes_read16
  | enum8 name set => exact readChecked_covers h valueBytes_read8
  | ioSamples => exact readIoSamples_covers h

theorem readFields_covers {frame : List Byte} {fs : List Field} {pos q : Nat} {vs : Fields} (hpos : pos ≤ frame.length)
    (h : readFields frame fs pos = .ok (vs, q)) : Covers frame pos vs q := by
  induction fs generalizing pos vs with
  | nil =>
    cases h
    exact .nil hpos
  | cons f fs ih =>
    obtain ⟨v, p, w, hf, hfs, rfl⟩ := readFields_cons_ok h
    have hv : Covers frame pos v p := readField_covers hf
    exact hv.append (ih hv.le hfs)

/-- A record holds the bytes behind the tag, the tail included. -/
theorem runFields_record {v v' : Variant} {fmt : Format} {frame : List Byte} {fs : Fields} (hlen : 1 ≤ frame.length)
    (h : runFields v fmt frame = .record v' fs) : v' = v ∧ Covers frame 1 fs frame.length := by
  unfold runFields at h
  split at h
  · cases h
  · next w p hread =>
    cases h
    have hfields := readFields_covers hlen hread
    have hend : p + (frame.length - p) = frame.length := Nat.add_sub_cancel' hfields.le
    have htail : Covers frame p [(fmt.tail, tailFrom frame p)] (p + (frame.length - p)) := .single hend.le rfl
    rw [hend] at htail
    exact ⟨rfl, hfields.append htail⟩

/-- Settles O46: each field reads the bytes from its own address to the next field's (`readField_covers`), so fields and
tail hold the bytes from 1 to the frame's end (`runFields_record`), which are the content after the tag. -/
theorem recordKeepsEveryByte : Obligations.RecordKeepsEveryByte := by
  unfold Obligations.RecordKeepsEveryByte
  intro v v' fmt tag body fs h
  obtain ⟨hv, n, hn, -, hbytes⟩ := runFields_record (by simp) h
  refine ⟨hv, hbytes.trans ?_⟩
  have hlen : n = body.length := by
    rw [List.length_cons] at hn
    omega
  rw [hlen, memBytes, List.drop_one, List.tail_cons, List.take_length]

end Sys2Proof.Machine
end
